-- ==== Sys2Proof/Word.lean ====
section
/-! DEFINITION. The 32-bit register word (00 R7, R9): every register of the block is one. -/

namespace Sys2Proof

/-- A 32-bit register or command word (00 R7). -/
abbrev Word := BitVec 32

end Sys2Proof
end

