-- ==== Sys2Proof/Config.lean ====
section
/-! DEFINITION. What an implementation fixes and what stays free: the parameters of 00 R8, as plain data
that State carries and no step changes (log 2), and the draws of 20 R88 (log 1). -/

namespace Sys2Proof

/-- CODE_POLICY (00 R8, 10 R28): which empty mailbox TSR.CODE names when several are empty. -/
inductive CodePolicy
  | any
  | lowestIndex
  deriving DecidableEq, Repr

/-- TX_ORDER (00 R8, 43 R206): which pending mailbox the transmit engine may complete next. -/
inductive TxOrder
  | any
  | assumed
  deriving DecidableEq, Repr

/-- FILT16_LAYOUT (00 R8, 30 R105): the layout of the 16-bit compact identifier. -/
inductive Filt16Layout
  | bxCan
  | sourceOrder
  deriving DecidableEq, Repr

/-- The parameters the source leaves open (00 R8). `brpBits` is BRP_BITS, the width of BTR's prescaler field,
which grows upward from bit 0 (10 R33). -/
structure Params where
  base0 : Nat
  base1 : Nat
  codePolicy : CodePolicy
  txOrder : TxOrder
  filt16 : Filt16Layout
  filterMaskInvert : Bool
  brpBits : Nat
  deriving DecidableEq, Repr

/-- The defaults of 00 R8. -/
def Params.standard : Params where
  base0 := 0x40006400
  base1 := 0x40006800
  codePolicy := .any
  txOrder := .any
  filt16 := .bxCan
  filterMaskInvert := false
  brpBits := 10

/-- The draws of 20 R88: draw number n is this free value; a rule that draws N bits takes N bits of it.
It has no body, so no proof can see a value of it (log 1). -/
opaque Config.draw : Nat → BitVec 64

end Sys2Proof
end

