-- ==== Sys2Proof/Syntax.lean ====
section
/-! DEFINITION. The commands of the block (30 R109, R112): one constructor per row of the opcode table, with the
command-word fields the row uses. The operand record is no part of the command word (30 R109): it stands in State. -/

namespace Sys2Proof

/-- The controller instances (00 R7): INST = 0 primary, INST = 1 secondary. -/
inductive Ctl
  | primary
  | secondary
  deriving DecidableEq, Repr

/-- A command as its 32-bit word names it (30 R112). `c` is INST; `idx` is IDX, as its two bits, so that the
illegal indices of 30 R111 are terms which `Instr.wf` refuses; `rel` is REL. -/
inductive Instr
  | regRd (c : Ctl)
  | regWr (c : Ctl)
  | regRmw (c : Ctl)
  | btSynth
  | btFreq
  | btApply (c : Ctl)
  | btRead (c : Ctl)
  | btClear (c : Ctl)
  | fwL32
  | fwL16
  | fwM32
  | fwM16
  | fwEnc16
  | fwDec16
  | idEnc
  | idDec
  | idCmp
  | idCmpm
  | idCmps
  | idCmpsm
  | idMkstd
  | idMkext
  | idFields
  | txSelect (c : Ctl)
  | txSend (c : Ctl)
  | txReadback (c : Ctl) (idx : BitVec 2)
  | txStatus (c : Ctl) (idx : BitVec 2)
  | rxRead (c : Ctl) (idx : BitVec 2) (rel : Bool)
  | rxRelease (c : Ctl) (idx : BitVec 2)
  | rxCount (c : Ctl) (idx : BitVec 2)
  | irqPend (c : Ctl)
  | irqClr (c : Ctl)
  deriving DecidableEq, Repr

end Sys2Proof
end

