-- ==== Sys2Proof/WellFormed.lean ====
section
/-! DEFINITION. Which terms are commands of the block (30 R111): a mailbox index is 0..2, a FIFO index 0..1; and
which parameters 00 R8 and 10 R33 leave possible. -/

namespace Sys2Proof

/-- IDX as a mailbox index: 3 is illegal (30 R111). -/
def mailboxIdxOk (idx : BitVec 2) : Bool := idx != 3

/-- IDX as a FIFO index: 2 and 3 are illegal (30 R111). -/
def fifoIdxOk (idx : BitVec 2) : Bool := idx.toNat < 2

/-- A command whose index, if it has one, is legal (30 R111). -/
def Instr.wf : Instr → Bool
  | .txReadback _ idx => mailboxIdxOk idx
  | .txStatus _ idx => mailboxIdxOk idx
  | .rxRead _ idx _ => fifoIdxOk idx
  | .rxRelease _ idx => fifoIdxOk idx
  | .rxCount _ idx => fifoIdxOk idx
  | .regRd _ | .regWr _ | .regRmw _ | .btSynth | .btFreq | .btApply _ | .btRead _ | .btClear _ => true
  | .fwL32 | .fwL16 | .fwM32 | .fwM16 | .fwEnc16 | .fwDec16 => true
  | .idEnc | .idDec | .idCmp | .idCmpm | .idCmps | .idCmpsm | .idMkstd | .idMkext | .idFields => true
  | .txSelect _ | .txSend _ | .irqPend _ | .irqClr _ => true

/-- The parameters a block can have: the prescaler field holds every prescaler of a descriptor (1..512, 00 R7) and
ends below TS1 at bit 16 (10 R33). -/
def Params.wf (p : Params) : Bool := 9 ≤ p.brpBits && p.brpBits ≤ 16

end Sys2Proof
end

