-- ==== Sys2Proof/Decode.lean ====
section
/-! DEFINITION. Decoding a command word (30 R109 to R112, R115): total on every word, refusing by name. After it the
encoder, written from the field positions of 30 R109, and the reading of a word numbered as the opcode table
numbers it. -/

namespace Sys2Proof

/-- Why a command word is illegal (30 R111); each of them is the fault F_ILLEGAL_COMMAND. -/
inductive Reject
  /-- No row matches: an unassigned OPC, or a nonzero bit that the row's mask covers (30 R115). -/
  | noRow
  /-- IDX = 3 in a row that uses IDX as a mailbox. -/
  | mailboxIndex
  /-- IDX ≥ 2 in a row that uses IDX as a FIFO. -/
  | fifoIndex
  deriving DecidableEq, Repr

/-- The command formats of 30 R112, CMD-IX told apart by what its IDX counts. -/
inductive Format
  | none
  | i
  | ixMailbox
  | ixFifo
  | ixrFifo
  deriving DecidableEq, Repr

/-- The mask of a row: all ones with the bits of its used fields cleared (30 R112). -/
def Format.mask : Format → Word
  | .none => 0xFFFFFFFF
  | .i => 0xFFFFFEFF
  | .ixMailbox => 0xFFFFF8FF
  | .ixFifo => 0xFFFFF8FF
  | .ixrFifo => 0xFFFFF0FF

/-- One row of the opcode map (30 R112): its OPC, its format, and the command it makes of INST, IDX and REL. -/
structure Row where
  opc : BitVec 8
  format : Format
  make : Ctl → BitVec 2 → Bool → Instr

/-- Rows 0x01 to 0x14: register access and bit timing. -/
def rowsRegBt : List Row := [
  ⟨0x01, .i, fun c _ _ => .regRd c⟩,
  ⟨0x02, .i, fun c _ _ => .regWr c⟩,
  ⟨0x03, .i, fun c _ _ => .regRmw c⟩,
  ⟨0x10, .none, fun _ _ _ => .btSynth⟩,
  ⟨0x11, .none, fun _ _ _ => .btFreq⟩,
  ⟨0x12, .i, fun c _ _ => .btApply c⟩,
  ⟨0x13, .i, fun c _ _ => .btRead c⟩,
  ⟨0x14, .i, fun c _ _ => .btClear c⟩]

/-- Rows 0x20 to 0x38: filter words and the address codec. -/
def rowsFwId : List Row := [
  ⟨0x20, .none, fun _ _ _ => .fwL32⟩,
  ⟨0x21, .none, fun _ _ _ => .fwL16⟩,
  ⟨0x22, .none, fun _ _ _ => .fwM32⟩,
  ⟨0x23, .none, fun _ _ _ => .fwM16⟩,
  ⟨0x24, .none, fun _ _ _ => .fwEnc16⟩,
  ⟨0x25, .none, fun _ _ _ => .fwDec16⟩,
  ⟨0x30, .none, fun _ _ _ => .idEnc⟩,
  ⟨0x31, .none, fun _ _ _ => .idDec⟩,
  ⟨0x32, .none, fun _ _ _ => .idCmp⟩,
  ⟨0x33, .none, fun _ _ _ => .idCmpm⟩,
  ⟨0x34, .none, fun _ _ _ => .idCmps⟩,
  ⟨0x35, .none, fun _ _ _ => .idCmpsm⟩,
  ⟨0x36, .none, fun _ _ _ => .idMkstd⟩,
  ⟨0x37, .none, fun _ _ _ => .idMkext⟩,
  ⟨0x38, .none, fun _ _ _ => .idFields⟩]

/-- Rows 0x40 to 0x61: transmit, receive and interrupt status. -/
def rowsTxRxIrq : List Row := [
  ⟨0x40, .i, fun c _ _ => .txSelect c⟩,
  ⟨0x41, .i, fun c _ _ => .txSend c⟩,
  ⟨0x42, .ixMailbox, fun c idx _ => .txReadback c idx⟩,
  ⟨0x43, .ixMailbox, fun c idx _ => .txStatus c idx⟩,
  ⟨0x50, .ixrFifo, fun c idx rel => .rxRead c idx rel⟩,
  ⟨0x51, .ixFifo, fun c idx _ => .rxRelease c idx⟩,
  ⟨0x52, .ixFifo, fun c idx _ => .rxCount c idx⟩,
  ⟨0x60, .i, fun c _ _ => .irqPend c⟩,
  ⟨0x61, .i, fun c _ _ => .irqClr c⟩]

/-- The opcode map (30 R112). -/
def rows : List Row := rowsRegBt ++ rowsFwId ++ rowsTxRxIrq

/-- INST, bit 8 of the command word (30 R109). -/
def ctlOfBit (b : Bool) : Ctl := if b then .secondary else .primary

/-- A row matches a word: `(w & mask) == match` (30 R111). -/
def Row.matches (r : Row) (w : Word) : Bool := w &&& r.format.mask == r.opc.setWidth 32

/-- The index check of a format (30 R111). -/
def Format.checkIdx (f : Format) (idx : BitVec 2) : Option Reject :=
  match f with
  | .ixMailbox => if mailboxIdxOk idx then .none else some .mailboxIndex
  | .ixFifo | .ixrFifo => if fifoIdxOk idx then .none else some .fifoIndex
  | .none | .i => .none

/-- Decoding a command word (30 R111). -/
def decode (w : Word) : Except Reject Instr :=
  match rows.find? (fun r => r.matches w) with
  | none => .error .noRow
  | some r =>
    let idx := w.extractLsb' 9 2
    match r.format.checkIdx idx with
    | some e => .error e
    | none => .ok (r.make (ctlOfBit (w.getLsbD 8)) idx (w.getLsbD 11))

/-- OPC of a command (30 R112). -/
def Instr.opcode : Instr → BitVec 8
  | .regRd _ => 0x01
  | .regWr _ => 0x02
  | .regRmw _ => 0x03
  | .btSynth => 0x10
  | .btFreq => 0x11
  | .btApply _ => 0x12
  | .btRead _ => 0x13
  | .btClear _ => 0x14
  | .fwL32 => 0x20
  | .fwL16 => 0x21
  | .fwM32 => 0x22
  | .fwM16 => 0x23
  | .fwEnc16 => 0x24
  | .fwDec16 => 0x25
  | .idEnc => 0x30
  | .idDec => 0x31
  | .idCmp => 0x32
  | .idCmpm => 0x33
  | .idCmps => 0x34
  | .idCmpsm => 0x35
  | .idMkstd => 0x36
  | .idMkext => 0x37
  | .idFields => 0x38
  | .txSelect _ => 0x40
  | .txSend _ => 0x41
  | .txReadback _ _ => 0x42
  | .txStatus _ _ => 0x43
  | .rxRead _ _ _ => 0x50
  | .rxRelease _ _ => 0x51
  | .rxCount _ _ => 0x52
  | .irqPend _ => 0x60
  | .irqClr _ => 0x61

/-- INST of a command, primary where the row has no INST field (30 R112). -/
def Instr.instField : Instr → Ctl
  | .regRd c | .regWr c | .regRmw c | .btApply c | .btRead c | .btClear c => c
  | .txSelect c | .txSend c | .txReadback c _ | .txStatus c _ => c
  | .rxRead c _ _ | .rxRelease c _ | .rxCount c _ | .irqPend c | .irqClr c => c
  | .btSynth | .btFreq | .fwL32 | .fwL16 | .fwM32 | .fwM16 | .fwEnc16 | .fwDec16 => .primary
  | .idEnc | .idDec | .idCmp | .idCmpm | .idCmps | .idCmpsm | .idMkstd | .idMkext | .idFields => .primary

/-- IDX of a command, 0 where the row has no IDX field (30 R112). -/
def Instr.idxField : Instr → BitVec 2
  | .txReadback _ idx | .txStatus _ idx | .rxRead _ idx _ | .rxRelease _ idx | .rxCount _ idx => idx
  | .regRd _ | .regWr _ | .regRmw _ | .btSynth | .btFreq | .btApply _ | .btRead _ | .btClear _ => 0
  | .fwL32 | .fwL16 | .fwM32 | .fwM16 | .fwEnc16 | .fwDec16 => 0
  | .idEnc | .idDec | .idCmp | .idCmpm | .idCmps | .idCmpsm | .idMkstd | .idMkext | .idFields => 0
  | .txSelect _ | .txSend _ | .irqPend _ | .irqClr _ => 0

/-- REL of a command, 0 where the row has no REL field (30 R112). -/
def Instr.relField : Instr → Bool
  | .rxRead _ _ rel => rel
  | .txReadback _ _ | .txStatus _ _ | .rxRelease _ _ | .rxCount _ _ => false
  | .regRd _ | .regWr _ | .regRmw _ | .btSynth | .btFreq | .btApply _ | .btRead _ | .btClear _ => false
  | .fwL32 | .fwL16 | .fwM32 | .fwM16 | .fwEnc16 | .fwDec16 => false
  | .idEnc | .idDec | .idCmp | .idCmpm | .idCmps | .idCmpsm | .idMkstd | .idMkext | .idFields => false
  | .txSelect _ | .txSend _ | .irqPend _ | .irqClr _ => false

/-- INST as its bit (30 R109). -/
def Ctl.bit : Ctl → Bool
  | .primary => false
  | .secondary => true

/-- The command word of a command: OPC in bits 7:0, INST in bit 8, IDX in bits 10:9, REL in bit 11, the rest 0
(30 R109). -/
def encode (i : Instr) : Word :=
  BitVec.setWidth 32 (BitVec.ofBool i.relField ++ i.idxField ++ BitVec.ofBool i.instField.bit ++ i.opcode)

/-- The command our decoder reads from an instruction whose bits are `w`, numbered as the opcode table numbers them:
the command word is the low 32 bits, every bit above `nbits` is 0. The operand record is no part of the decoded
command. -/
def decodeTableWord (nbits w : Nat) : Option Instr :=
  match decode (BitVec.ofNat 32 (w % 2 ^ nbits)) with
  | .ok i => some i
  | .error _ => none

end Sys2Proof
end

