-- ==== Sys2Proof/Machine/State.lean ====
section
/-! DEFINITION. The state of the block as plain data (10_state.md), the faults of the model (60 R281), the agents'
steps and the host's events (00 R5), and the state after power-on reset (70 R310, R312). -/

namespace Sys2Proof.Machine

/-- A bit-timing descriptor (41 R150): unsigned integers, in the order of the operand slots of BT.APPLY. -/
structure Desc where
  presc : Nat
  ts1 : Nat
  ts2 : Nat
  sjw : Nat
  deriving DecidableEq, Repr

/-- The fault causes of 60 R281, each with the info recorded. All are SAFE: the model stops where the source gives
the hardware no meaning (92 D40). A fault is written to the Fault record by the command that raises it, and is the
`fault` outcome of every later step and command (60 R280, log 5). -/
inductive Fault
  /-- Code 1. Raised by decoding (30 R111, R115), with the command word. Safe. -/
  | illegalCommand (w : Word)
  /-- Code 2. Raised by a command's operand checks (30 R113), with the slot and its value. Safe. -/
  | operandRange (slot value : Nat)
  /-- Code 3. Raised by `memRead` and `memWrite` on an unaligned or unmapped offset (40 R130). Safe. -/
  | badOffset (c : Ctl) (off : Nat)
  /-- Code 4. Raised by `memRead` and `memWrite` on a width other than 4 (20 R83); no command does so. Safe. -/
  | badWidth (c : Ctl) (off n : Nat)
  /-- Code 5. Raised by MCR and BTR writes that change an Init-only field outside Init mode (40 R133, R138). Safe. -/
  | notInit (c : Ctl) (off : Nat)
  /-- Code 6. Raised by filter register writes out of order (40 R142). Safe. -/
  | filterLocked (off : Nat)
  /-- Code 7. Raised by a write to a register of a pending mailbox (40 R139, R140). Safe. -/
  | mailboxBusy (c : Ctl) (m : Fin 3)
  /-- Code 8. Raised by a read of a register unwritten since reset, and by TXRQ set over unwritten data
  (40 R139, R145). Safe. -/
  | unwrittenRead (c : Ctl) (off : Nat)
  /-- Code 9. Raised by BT.FREQ on a zero divisor, with the prescaler (41 R153). Safe. -/
  | divZero (presc : Nat)
  /-- Code 10. Raised by BT.APPLY on a descriptor out of range (41 R154). Safe. -/
  | descRange (d : Desc)
  deriving DecidableEq, Repr

/-- Why the model has no meaning for an instruction. -/
inductive Refusal
  /-- Raised by an arm of exec whose instruction has no meaning yet; no arm of this model does so. Safe. -/
  | notModelled (mnemonic : String)
  deriving DecidableEq, Repr

/-- The acknowledged mode and the three mode interrupt flags of MSR (10 R25); its other bits are not stored. -/
structure Msr where
  inak : Bool
  slak : Bool
  erri : Bool
  wkui : Bool
  slaki : Bool
  deriving DecidableEq, Repr

/-- A transmit mailbox: TImR, TDTmR, TDLmR, TDHmR (10 R34 to R36), their Written flags (10 R44), and the mailbox's
flags of TSR (10 R26). `time` is none until TXE first stamps it (40 R143). -/
structure Mailbox where
  ident : BitVec 31
  txrq : Bool
  dlc : BitVec 4
  tgt : Bool
  time : Option (BitVec 16)
  tdl : Word
  tdh : Word
  wroteTi : Bool
  wroteTdt : Bool
  wroteTdl : Bool
  wroteTdh : Bool
  rqcp : Bool
  txok : Bool
  alst : Bool
  terr : Bool
  abrq : Bool
  deriving DecidableEq, Repr

/-- A receive FIFO entry (10 R41). -/
structure Entry where
  rir : Word
  dlc : BitVec 4
  fmi : BitVec 8
  time : BitVec 16
  data : BitVec 64
  deriving DecidableEq, Repr

/-- A receive FIFO: its entries, oldest first, and the flags of RFfR (10 R30, R41, R42). -/
structure Fifo where
  q : List Entry
  full : Bool
  fovr : Bool
  rfom : Bool
  deriving DecidableEq, Repr

/-- One controller instance (10 R22). MCR, IER, ESR and BTR hold their defined bits; the other bits are 0. -/
structure Ctrl where
  mcr : Word
  msr : Msr
  ier : Word
  esr : Word
  btr : Word
  mbs : Vector Mailbox 3
  fifos : Vector Fifo 2
  reqOrder : List (Fin 3)
  deriving DecidableEq, Repr

/-- The two content registers of a filter bank and their Written flags (10 R40, R44). -/
structure Bank where
  r1 : Word
  r2 : Word
  wrote1 : Bool
  wrote2 : Bool
  deriving DecidableEq, Repr

/-- The filter registers, which instance 0 holds (10 R40, R48). -/
structure Filters where
  fmr : Word
  fm1r : Word
  fs1r : Word
  ffa1r : Word
  fa1r : Word
  banks : Vector Bank 28
  deriving DecidableEq, Repr

/-- The operand record of the current command (30 R113). -/
structure Operands where
  x1 : Nat
  x2 : Nat
  x3 : Nat
  x4 : Nat
  x5 : Nat
  deriving DecidableEq, Repr

/-- The result record of the last command (30 R114): a slot the command did not write is absent. -/
structure Results where
  x1 : Option Nat
  x2 : Option Nat
  x3 : Option Nat
  x4 : Option Nat
  x5 : Option Nat
  deriving DecidableEq, Repr

/-- How a transmission ended (43 R206). -/
inductive TxOutcome
  | ok
  | alst
  | terr
  deriving DecidableEq, Repr

/-- The steps of TXE, RXE and ENV (43 R206, R207, R212; 44 R231, R233; 60 R296, R297). What a step's rule leaves to
the environment is the step's data. -/
inductive AgentStep
  | complete (c : Ctl) (m : Fin 3) (o : TxOutcome)
  | retry (c : Ctl) (m : Fin 3) (o : TxOutcome)
  | abort (c : Ctl) (m : Fin 3)
  | deliver (c : Ctl) (f : Fin 2) (e : Entry)
  | release (c : Ctl) (f : Fin 2)
  | ack (c : Ctl)
  | error (c : Ctl) (esr : Word) (erri : Bool)
  | wake (c : Ctl)
  deriving DecidableEq, Repr

/-- What may happen next (00 R5, R6): the host issues a command, the host gives the reset pulse, an agent steps. -/
inductive Event
  | command (w : Word) (x : Operands)
  | reset (c : Ctl)
  | agent (a : AgentStep)
  deriving DecidableEq, Repr

/-- The machine. The first four fields are the block (10_state.md); the last six are the command's records, the
parameters, and the model's own choices of what comes next (INVENTORY.md, State; logs 1 to 4). -/
structure State where
  primary : Ctrl
  secondary : Ctrl
  filters : Filters
  fault : Option Fault
  ops : Operands
  res : Results
  params : Params
  draws : Nat
  agenda : List Event
  gaps : List (List AgentStep)
  deriving DecidableEq, Repr

/-- A record with no result (30 R114). -/
def Results.absent : Results := ⟨none, none, none, none, none⟩

/-- The operand record of zeros (log 3). -/
def Operands.zero : Operands := ⟨0, 0, 0, 0, 0⟩

/-- A mailbox after reset: empty, unwritten, its flags clear (70 R310, R312). The unspecified contents are 0, which
no read can show (log 7). -/
def Mailbox.reset : Mailbox where
  ident := 0
  txrq := false
  dlc := 0
  tgt := false
  time := none
  tdl := 0
  tdh := 0
  wroteTi := false
  wroteTdt := false
  wroteTdl := false
  wroteTdh := false
  rqcp := false
  txok := false
  alst := false
  terr := false
  abrq := false

/-- A FIFO after reset (70 R312). -/
def Fifo.reset : Fifo := ⟨[], false, false, false⟩

/-- MSR after reset: Sleep mode acknowledged (70 R312, R313). -/
def Msr.reset : Msr := ⟨false, true, false, false, false⟩

/-- An instance after reset (70 R312). -/
def Ctrl.reset : Ctrl where
  mcr := 0x00010002
  msr := Msr.reset
  ier := 0
  esr := 0
  btr := 0x01230000
  mbs := Vector.replicate 3 Mailbox.reset
  fifos := Vector.replicate 2 Fifo.reset
  reqOrder := []

/-- A filter bank after the reset of instance 0: unwritten (70 R312, log 7). -/
def Bank.reset : Bank := ⟨0, 0, false, false⟩

/-- The filter registers after the reset of instance 0: FINIT = 1, CAN2SB = 14 (70 R312). -/
def Filters.reset : Filters where
  fmr := 0x00000E01
  fm1r := 0
  fs1r := 0
  ffa1r := 0
  fa1r := 0
  banks := Vector.replicate 28 Bank.reset

/-- The machine after power-on, a reset pulse of both instances (70 R310), with no fault, the default parameters
(00 R8) and nothing scheduled. -/
def State.reset : State where
  primary := Ctrl.reset
  secondary := Ctrl.reset
  filters := Filters.reset
  fault := none
  ops := Operands.zero
  res := Results.absent
  params := Params.standard
  draws := 0
  agenda := []
  gaps := []

end Sys2Proof.Machine
end

