-- ==== Sys2Proof/Machine/Ops.lean ====
section
/-! DEFINITION. The shared operations over State: accessors of instances, mailboxes, FIFOs and banks, draws, the
command monad, raising a fault and ending a command (60 R280), and reset (70 R310, R311). -/

namespace Sys2Proof.Machine

/-! ### Accessors -/

/-- Instance c of the machine (10 R48). -/
def State.ctl (s : State) : Ctl → Ctrl
  | .primary => s.primary
  | .secondary => s.secondary

/-- Replaces instance c. -/
def State.setCtl (s : State) (c : Ctl) (r : Ctrl) : State :=
  match c with
  | .primary => { s with primary := r }
  | .secondary => { s with secondary := r }

/-- Mailbox m of an instance. -/
def Ctrl.mb (r : Ctrl) (m : Fin 3) : Mailbox := r.mbs.get m

/-- Replaces mailbox m. -/
def Ctrl.setMb (r : Ctrl) (m : Fin 3) (x : Mailbox) : Ctrl := { r with mbs := r.mbs.set m x }

/-- FIFO f of an instance. -/
def Ctrl.fifo (r : Ctrl) (f : Fin 2) : Fifo := r.fifos.get f

/-- Replaces FIFO f. -/
def Ctrl.setFifo (r : Ctrl) (f : Fin 2) (x : Fifo) : Ctrl := { r with fifos := r.fifos.set f x }

/-- Filter bank n (10 R40). -/
def Filters.bank (x : Filters) (n : Fin 28) : Bank := x.banks.get n

/-- Replaces filter bank n. -/
def Filters.setBank (x : Filters) (n : Fin 28) (b : Bank) : Filters := { x with banks := x.banks.set n b }

/-- Mailbox m of instance c. -/
def State.mb (s : State) (c : Ctl) (m : Fin 3) : Mailbox := (s.ctl c).mb m

/-- FIFO f of instance c. -/
def State.fifo (s : State) (c : Ctl) (f : Fin 2) : Fifo := (s.ctl c).fifo f

/-- Replaces mailbox m of instance c. -/
def State.setMb (s : State) (c : Ctl) (m : Fin 3) (x : Mailbox) : State := s.setCtl c ((s.ctl c).setMb m x)

/-- Replaces FIFO f of instance c. -/
def State.setFifo (s : State) (c : Ctl) (f : Fin 2) (x : Fifo) : State := s.setCtl c ((s.ctl c).setFifo f x)

/-- Replaces the filter registers. -/
def State.setFilters (s : State) (x : Filters) : State := { s with filters := x }

/-- Replaces the result record. -/
def State.setRes (s : State) (r : Results) : State := { s with res := r }

/-- Replaces the schedule of the gaps. -/
def State.setGaps (s : State) (g : List (List AgentStep)) : State := { s with gaps := g }

/-- Takes n draw numbers (20 R88). -/
def State.advance (s : State) (n : Nat) : State := { s with draws := s.draws + n }

/-- The base address of an instance's register window (00 R8, 20 R80). -/
def baseOf (p : Params) : Ctl → Nat
  | .primary => p.base0
  | .secondary => p.base1

/-- The address at which the host's bus reaches offset `off` of an instance (20 R80). Every rule uses the offset. -/
def busAddress (p : Params) (c : Ctl) (off : Nat) : Nat := baseOf p c + off

/-! ### Bits -/

/-- A word with bit n = b and every other bit 0. -/
def bitAt (b : Bool) (n : Nat) : Word := (BitVec.ofBool b).setWidth 32 <<< n

/-- The value a read gives of a register whose defined bits are `mask`: the stored bits there, a draw elsewhere
(20 R87). -/
def overlay (mask stored : Word) (d : BitVec 64) : Word := (stored &&& mask) ||| (d.setWidth 32 &&& ~~~mask)

/-! ### Masks of the defined bits -/

/-- The stored bits of MCR: 7:0 and DBF (10 R23). -/
def mcrMask : Word := 0x000100FF

/-- The bits of MCR a read defines: the stored ones and RESET, which reads 0 (40 R143). -/
def mcrReadMask : Word := 0x000180FF

/-- TXFP, RFLM, NART, AWUM, ABOM, TTCM and DBF (40 R133). -/
def initOnlyMask : Word := 0x000100FC

/-- The defined bits of IER (10 R31, 40 R137). -/
def ierMask : Word := 0x00038F7F

/-- The defined bits of ESR (10 R32). -/
def esrMask : Word := 0xFFFF0077

/-- ESR.LEC, the one field of ESR the host writes (40 R137). -/
def lecMask : Word := 0x00000070

/-- The bits of MSR a read defines (40 R143). -/
def msrMask : Word := 0x0000001F

/-- The bits of TSR a read defines (10 R26). -/
def tsrMask : Word := 0xFF8F8F8F

/-- The bits of RFfR a read defines (10 R30). -/
def rfrMask : Word := 0x0000003B

/-- The bits of TDTmR a read defines (10 R35). -/
def tdtMask : Word := 0xFFFF010F

/-- The bits of RDTfR a read defines (10 R38). -/
def rdtMask : Word := 0xFFFFFF0F

/-- FINIT and CAN2SB (10 R40). -/
def fmrMask : Word := 0x00003F01

/-- The bank bits of FM1R, FS1R, FFA1R and FA1R (10 R40). -/
def bankMask : Word := 0x0FFFFFFF

/-- BTR.BRP: BRP_BITS bits from bit 0 (10 R33, 00 R8). -/
def brpMask (p : Params) : Word := BitVec.ofNat 32 (2 ^ min p.brpBits 16 - 1)

/-- SILM, LBKM, SJW, TS2, TS1 and BRP: BTRMASK of 40 R138, which is 0xC37F_03FF for the default BRP_BITS = 10. -/
def btrMask (p : Params) : Word := 0xC37F0000 ||| brpMask p

/-! ### The command monad, faults, and the end of a command -/

/-- A command: state in, a value and the state out, or the fault raised and the state in which it was raised. -/
abbrev Cmd := EStateM Fault State

/-- `raise F(info)` (00 R10, 60 R280): ends the command; what it did before stays done. -/
def raise {α : Type} (f : Fault) : Cmd α := fun s => .error f s

/-- Records the first fault and leaves no result (60 R280, 10 R45): the model's only exception entry. -/
def recordFault (f : Fault) (s : State) : State :=
  { s with fault := some (s.fault.getD f), res := Results.absent }

/-- The state in which a command ends: with its results, or with the fault it raised recorded (60 R280). -/
def finish (o : EStateM.Result Fault State Results) : State :=
  match o with
  | .ok r s => s.setRes r
  | .error f s => recordFault f s

/-- Runs one command. After a fault no step is enabled, so the machine stops with that fault (60 R280). There is no
return from a fault (60 R286). -/
def command (s : State) (body : Cmd Results) : Host.Outcome State Fault Refusal :=
  match s.fault with
  | some f => .fault f
  | none => .next (finish (body s))

/-! ### Draws -/

/-- Takes the next draw (20 R88). -/
def draw : Cmd (BitVec 64) := fun s => .ok (Config.draw s.draws) (s.advance 1)

/-- choose(E) of 10 R28: the member of a list that a draw picks; mailbox 0 for the empty list, which no rule asks
for. -/
def choose (e : List (Fin 3)) (d : BitVec 64) : Fin 3 := e.getD (d.toNat % e.length) 0

/-! ### Reset -/

/-- Software reset through MCR.RESET (70 R311): the instance's registers and hidden state take their reset values; the
filter registers stay. -/
def softwareReset (c : Ctl) (s : State) : State := s.setCtl c Ctrl.reset

/-- The reset pulse HOST.RESET(i) (70 R310): as the software reset, and instance 0's reset also resets the filter
registers. The Fault record is not changed. -/
def hostReset (c : Ctl) (s : State) : State :=
  match c with
  | .primary => (softwareReset .primary s).setFilters Filters.reset
  | .secondary => softwareReset .secondary s

end Sys2Proof.Machine
end

