-- ==== Sys2Proof/Machine/Operands.lean ====
section
/-! DEFINITION. The operand forms: reading a slot of the operand record and its range check (30 R113, 60 R283), the
MOBID (30 R100 to R103), the 16-bit compact form and the filter words (30 R105, 42), the descriptor and BTR (30 R106),
the payload and the length (30 R107, R108), and the result records. -/

namespace Sys2Proof.Machine

/-! ### Operand slots -/

/-- Slot i of the operand record (30 R113). -/
def Operands.slot (x : Operands) : Nat → Nat
  | 1 => x.x1
  | 2 => x.x2
  | 3 => x.x3
  | 4 => x.x4
  | 5 => x.x5
  | _ => 0

/-- Operand slot i, a `w`-bit value: F_OPERAND_RANGE where it does not fit (30 R113). -/
def operand (i w : Nat) : Cmd Nat := fun s =>
  if s.ops.slot i < 2 ^ w then .ok (s.ops.slot i) s else .error (.operandRange i (s.ops.slot i)) s

/-- Operand slot i, a 32-bit value, as a word. -/
def operandWord (i : Nat) : Cmd Word := do
  let v ← operand i 32
  return BitVec.ofNat 32 v

/-! ### MOBID -/

/-- The canonical form of a MOBID (30 R103). -/
def canon (m : Word) : Word := if m.getLsbD 2 then m &&& 0xFFFFFFFE else m &&& 0xFFE00002

/-- STD, bits 31:21 (30 R100). -/
def mobidStd (m : Word) : BitVec 11 := m.extractLsb' 21 11

/-- EXT, bits 20:3 (30 R100). -/
def mobidExt (m : Word) : BitVec 18 := m.extractLsb' 3 18

/-- IDE, bit 2 (30 R100). -/
def mobidIde (m : Word) : Bool := m.getLsbD 2

/-- RTR, bit 1 (30 R100). -/
def mobidRtr (m : Word) : Bool := m.getLsbD 1

/-- The 29-bit identifier {STD, EXT} of an extended MOBID (30 R102). -/
def mobidId29 (m : Word) : BitVec 29 := m.extractLsb' 3 29

/-- FULL: every identifier bit (46 R257). -/
def fullMask : Word := 0xFFFFFFFE

/-- STDMASK: STD and RTR (46 R257). -/
def stdMask : Word := 0xFFE00002

/-- sel(b): the comparison mask the second operand's IDE flag chooses (46 R257). -/
def sel (b : Word) : Word := if b.getLsbD 2 then fullMask else stdMask

/-! ### The 16-bit compact form and the filter words -/

/-- enc16raw of 42_filter_words.md: STD in h[15:5], then RTR, IDE, EXT[17:15] (BxCAN) or EXT[17:15], IDE, RTR
(SourceOrder) (30 R105). -/
def enc16raw (l : Filt16Layout) (m : Word) : BitVec 16 :=
  match l with
  | .bxCan => m.extractLsb' 21 11 ++ m.extractLsb' 1 1 ++ m.extractLsb' 2 1 ++ m.extractLsb' 18 3
  | .sourceOrder => m.extractLsb' 21 11 ++ m.extractLsb' 18 3 ++ m.extractLsb' 2 1 ++ m.extractLsb' 1 1

/-- enc16: the compact form of an identifier (42_filter_words.md). -/
def enc16 (l : Filt16Layout) (m : Word) : BitVec 16 := enc16raw l (canon m)

/-- The MOBID of a compact word, before canon (42 R171): {STD, EXT[17:15], EXT[14:0] = 0, IDE, RTR, 0}. -/
def dec16raw (l : Filt16Layout) (h : BitVec 16) : Word :=
  match l with
  | .bxCan =>
    h.extractLsb' 5 11 ++ h.extractLsb' 0 3 ++ (0 : BitVec 15) ++ h.extractLsb' 3 1 ++ h.extractLsb' 4 1
      ++ (0 : BitVec 1)
  | .sourceOrder =>
    h.extractLsb' 5 11 ++ h.extractLsb' 2 3 ++ (0 : BitVec 15) ++ h.extractLsb' 1 1 ++ h.extractLsb' 0 1
      ++ (0 : BitVec 1)

/-- dec16 (42 R171). -/
def dec16 (l : Filt16Layout) (h : BitVec 16) : Word := canon (dec16raw l h)

/-- maskw16: a 16-bit mask word, inverted under FILTER_MASK_INVERT (42_filter_words.md). -/
def maskw16 (p : Params) (k : Word) : BitVec 16 :=
  if p.filterMaskInvert then ~~~(enc16raw p.filt16 k) else enc16raw p.filt16 k

/-- maskw32: a 32-bit mask word, bit 0 cleared (42_filter_words.md). -/
def maskw32 (p : Params) (k : Word) : Word := (if p.filterMaskInvert then ~~~k else k) &&& 0xFFFFFFFE

/-! ### Descriptor and BTR -/

/-- The descriptor's legal ranges and sjw ≤ ts2 (41 R150, R154). -/
def Desc.legal (d : Desc) : Bool :=
  1 ≤ d.presc && d.presc ≤ 512 && 1 ≤ d.ts1 && d.ts1 ≤ 16 && 1 ≤ d.ts2 && d.ts2 ≤ 8 && 1 ≤ d.sjw && d.sjw ≤ 4
    && d.sjw ≤ d.ts2

/-- btr_timing(d): each field less one, in its place (30 R106). -/
def btrTiming (d : Desc) : Word :=
  BitVec.ofNat 32 (d.sjw - 1) <<< 24 ||| BitVec.ofNat 32 (d.ts2 - 1) <<< 20 ||| BitVec.ofNat 32 (d.ts1 - 1) <<< 16
    ||| BitVec.ofNat 32 (d.presc - 1)

/-- desc_of(btr) (30 R106), with the prescaler field BRP_BITS wide. -/
def descOf (p : Params) (btr : Word) : Desc where
  presc := (btr &&& brpMask p).toNat + 1
  ts1 := (btr.extractLsb' 16 4).toNat + 1
  ts2 := (btr.extractLsb' 20 3).toNat + 1
  sjw := (btr.extractLsb' 24 2).toNat + 1

/-! ### Payload and length -/

/-- The low register word of a payload: bytes 0..3 (30 R107). -/
def packLo (d : BitVec 64) : Word := d.extractLsb' 0 32

/-- The high register word of a payload: bytes 4..7 (30 R107). -/
def packHi (d : BitVec 64) : Word := d.extractLsb' 32 32

/-- unpack(lo, hi) = {hi, lo} (30 R107). -/
def unpack (lo hi : Word) : BitVec 64 := hi ++ lo

/-- nbytes(DLC) = min(DLC, 8) (30 R108). -/
def nbytes (dlc : BitVec 4) : Nat := min dlc.toNat 8

/-- Lanes 0..n-1 of the 64-bit payload (43 R192). -/
def keepMask (n : Nat) : BitVec 64 := BitVec.ofNat 64 (2 ^ (8 * n) - 1)

/-! ### Indices -/

/-- The mailbox an IDX field names, none for 3 (30 R111). -/
def mailboxOf (idx : BitVec 2) : Option (Fin 3) := if h : idx.toNat < 3 then some ⟨idx.toNat, h⟩ else none

/-- The FIFO an IDX field names, none for 2 and 3 (30 R111). -/
def fifoOf (idx : BitVec 2) : Option (Fin 2) := if h : idx.toNat < 2 then some ⟨idx.toNat, h⟩ else none

/-! ### Result records -/

/-- A record with x[1] only (30 R114). -/
def Results.one (a : Nat) : Results := ⟨some a, none, none, none, none⟩

/-- A record with x[1] and x[2]. -/
def Results.two (a b : Nat) : Results := ⟨some a, some b, none, none, none⟩

/-- A record with x[1] to x[4]. -/
def Results.four (a b c d : Nat) : Results := ⟨some a, some b, some c, some d, none⟩

/-- A record with x[1] to x[5]. -/
def Results.five (a b c d e : Nat) : Results := ⟨some a, some b, some c, some d, some e⟩

end Sys2Proof.Machine
end

