-- ==== Sys2Proof/Machine/AddressCodec.lean ====
section
/-! DEFINITION. The address codec commands ID.* (46 R255 to R264): pure, they read only their operands. -/

namespace Sys2Proof.Machine

/-- compare(a, b) (46 R258): the mask is chosen by the second operand. -/
def idCompare (a b : Word) : Bool := (a ^^^ b) &&& sel b == 0

/-- compare_masked(a, b, k) (46 R259): a 1 in k is "don't care". -/
def idCompareMasked (a b k : Word) : Bool := (a ^^^ b) &&& sel b &&& ~~~k == 0

/-- compare_standard_only(a, b) (46 R260). -/
def idCompareStd (a b : Word) : Bool := (a ^^^ b) &&& stdMask == 0

/-- compare_standard_only_masked(a, b, k) (46 R261). -/
def idCompareStdMasked (a b k : Word) : Bool := (a ^^^ b) &&& stdMask &&& ~~~k == 0

/-- ID.ENC (46 R255). -/
def execIdEnc (s : State) : Host.Outcome State Fault Refusal :=
  command s do
    let m ← operandWord 1
    return Results.one (canon m).toNat

/-- ID.DEC (46 R256). -/
def execIdDec (s : State) : Host.Outcome State Fault Refusal :=
  command s do
    let w ← operandWord 1
    return Results.one (canon (w &&& 0xFFFFFFFE)).toNat

/-- ID.CMP (46 R258). -/
def execIdCmp (s : State) : Host.Outcome State Fault Refusal :=
  command s do
    let a ← operandWord 1
    let b ← operandWord 2
    return Results.one (idCompare a b).toNat

/-- ID.CMPM (46 R259). -/
def execIdCmpm (s : State) : Host.Outcome State Fault Refusal :=
  command s do
    let a ← operandWord 1
    let b ← operandWord 2
    let k ← operandWord 3
    return Results.one (idCompareMasked a b k).toNat

/-- ID.CMPS (46 R260). -/
def execIdCmps (s : State) : Host.Outcome State Fault Refusal :=
  command s do
    let a ← operandWord 1
    let b ← operandWord 2
    return Results.one (idCompareStd a b).toNat

/-- ID.CMPSM (46 R261). -/
def execIdCmpsm (s : State) : Host.Outcome State Fault Refusal :=
  command s do
    let a ← operandWord 1
    let b ← operandWord 2
    let k ← operandWord 3
    return Results.one (idCompareStdMasked a b k).toNat

/-- ID.MKSTD (46 R262). -/
def execIdMkstd (s : State) : Host.Outcome State Fault Refusal :=
  command s do
    let std ← operand 1 11
    let rtr ← operand 2 1
    return Results.one (BitVec.ofNat 32 std <<< 21 ||| BitVec.ofNat 32 rtr <<< 1).toNat

/-- ID.MKEXT (46 R263). -/
def execIdMkext (s : State) : Host.Outcome State Fault Refusal :=
  command s do
    let id29 ← operand 1 29
    let rtr ← operand 2 1
    return Results.one (BitVec.ofNat 32 id29 <<< 3 ||| 0x4 ||| BitVec.ofNat 32 rtr <<< 1).toNat

/-- ID.FIELDS (46 R264), of the canonical form. -/
def execIdFields (s : State) : Host.Outcome State Fault Refusal :=
  command s do
    let m ← operandWord 1
    let c := canon m
    let ident := if mobidIde c then (mobidId29 c).toNat else (mobidStd c).toNat
    return Results.five (mobidStd c).toNat (mobidExt c).toNat (mobidIde c).toNat (mobidRtr c).toNat ident

end Sys2Proof.Machine
end

