-- ==== Sys2Proof/Machine/Flags.lean ====
section
/-! DEFINITION. Everything the block computes from its state rather than storing it: the mode (60 R290), the transmit
priority (43 R205), the fields TME, CODE and LOW of TSR (10 R27 to R29), the words of MSR, TSR and RFfR, the interrupt
conditions (45 R240) and the interrupt request lines (60 R288). -/

namespace Sys2Proof.Machine

/-! ### Modes -/

/-- The Mode Controller's states (60 R290). -/
inductive Mode
  | init
  | sleep
  | normal
  deriving DecidableEq, Repr

/-- mode(i), from MSR (60 R290). -/
def Ctrl.mode (r : Ctrl) : Mode :=
  if r.msr.inak then .init else if r.msr.slak then .sleep else .normal

/-- MCR.INRQ (10 R23). -/
def Ctrl.inrq (r : Ctrl) : Bool := r.mcr.getLsbD 0

/-- MCR.SLEEP (10 R23). -/
def Ctrl.sleepReq (r : Ctrl) : Bool := r.mcr.getLsbD 1

/-- MCR.TXFP (10 R23). -/
def Ctrl.txfp (r : Ctrl) : Bool := r.mcr.getLsbD 2

/-- MCR.RFLM (10 R23). -/
def Ctrl.rflm (r : Ctrl) : Bool := r.mcr.getLsbD 3

/-- MCR.NART (10 R23). -/
def Ctrl.nart (r : Ctrl) : Bool := r.mcr.getLsbD 4

/-- MCR.AWUM (10 R23). -/
def Ctrl.awum (r : Ctrl) : Bool := r.mcr.getLsbD 5

/-- MCR.TTCM (10 R23). -/
def Ctrl.ttcm (r : Ctrl) : Bool := r.mcr.getLsbD 7

/-- target(i): the requested mode (60 R290). -/
def Ctrl.target (r : Ctrl) : Mode := if r.inrq then .init else if r.sleepReq then .sleep else .normal

/-- ack of 60 R296: the values (INAK, SLAK) that acknowledge a mode. -/
def Mode.ack : Mode → Bool × Bool
  | .init => (true, false)
  | .sleep => (false, true)
  | .normal => (false, false)

/-! ### Mailboxes -/

/-- The mailbox indices, lowest first. -/
def mailboxes : List (Fin 3) := [0, 1, 2]

/-- A mailbox is empty exactly when its TXRQ is 0 (10 R27, 43 R190). -/
def Mailbox.empty (x : Mailbox) : Bool := !x.txrq

/-- The pending mailboxes, lowest index first (43 R190). -/
def Ctrl.pending (r : Ctrl) : List (Fin 3) := mailboxes.filter fun m => (r.mb m).txrq

/-- The empty mailboxes, lowest index first: E of 10 R28. -/
def Ctrl.empties (r : Ctrl) : List (Fin 3) := mailboxes.filter fun m => (r.mb m).empty

/-- before(a, b): pending mailbox a is sent before pending mailbox b (43 R205). -/
def Ctrl.before (r : Ctrl) (a b : Fin 3) : Bool :=
  if r.txfp then r.reqOrder.idxOf a < r.reqOrder.idxOf b
  else (r.mb a).ident < (r.mb b).ident || ((r.mb a).ident == (r.mb b).ident && a < b)

/-- The last of a and the listed mailboxes in the order of `before`. -/
def Ctrl.lastOf (r : Ctrl) (a : Fin 3) (l : List (Fin 3)) : Fin 3 :=
  l.foldl (fun p q => if r.before p q then q else p) a

/-- lowest_priority_pending(): the pending mailbox that every other pending one is before (43 R205); mailbox 0 where
none is pending, for which no rule asks. -/
def Ctrl.lowestPriority (r : Ctrl) : Fin 3 :=
  match r.pending with
  | [] => 0
  | a :: l => r.lastOf a l

/-- m is the first pending mailbox in the order of 43 R205. -/
def Ctrl.isFirst (r : Ctrl) (m : Fin 3) : Bool := r.pending.all fun q => q == m || r.before m q

/-- TSR.CODE (10 R28); `d` is the draw of choose(E). -/
def Ctrl.code (r : Ctrl) (p : Params) (d : BitVec 64) : Fin 3 :=
  match r.empties with
  | [] => r.lowestPriority
  | a :: l => match p.codePolicy with
    | .lowestIndex => a
    | .any => choose (a :: l) d

/-- TSR.LOWm (10 R29). -/
def Ctrl.low (r : Ctrl) (m : Fin 3) : Bool := decide (2 ≤ r.pending.length) && m == r.lowestPriority

/-! ### The words of MSR, TSR and RFfR -/

/-- The defined bits of MSR (10 R25). -/
def Msr.word (x : Msr) : Word :=
  bitAt x.inak 0 ||| bitAt x.slak 1 ||| bitAt x.erri 2 ||| bitAt x.wkui 3 ||| bitAt x.slaki 4

/-- A mailbox's five stored TSR bits, at bits 0 to 7 (10 R26). -/
def Mailbox.tsrBits (x : Mailbox) : Word :=
  bitAt x.rqcp 0 ||| bitAt x.txok 1 ||| bitAt x.alst 2 ||| bitAt x.terr 3 ||| bitAt x.abrq 7

/-- The defined bits of TSR (10 R26 to R29): LOW, TME, CODE and the stored bits of the three mailboxes. -/
def Ctrl.tsrWord (r : Ctrl) (p : Params) (d : BitVec 64) : Word :=
  (r.mb 0).tsrBits ||| (r.mb 1).tsrBits <<< 8 ||| (r.mb 2).tsrBits <<< 16
    ||| BitVec.ofNat 32 (r.code p d).val <<< 24
    ||| bitAt (r.mb 0).empty 26 ||| bitAt (r.mb 1).empty 27 ||| bitAt (r.mb 2).empty 28
    ||| bitAt (r.low 0) 29 ||| bitAt (r.low 1) 30 ||| bitAt (r.low 2) 31

/-- The defined bits of RFfR (10 R30): FMP is the number of entries. -/
def Fifo.word (x : Fifo) : Word :=
  (BitVec.ofNat 2 x.q.length).setWidth 32 ||| bitAt x.full 3 ||| bitAt x.fovr 4 ||| bitAt x.rfom 5

/-! ### Interrupt conditions -/

/-- IRQMASK: the legal mask bits (45 R240). -/
def irqMask : Word := 0x00038F7F

/-- The registers the interrupt table reads (45 R240). -/
inductive IrqSource
  | tsr
  | rf0r
  | rf1r
  | esr
  | msr
  deriving DecidableEq, Repr

/-- The groups of 45_interrupt_status.md, in their fixed order. -/
def irqSources : List IrqSource := [.tsr, .rf0r, .rf1r, .esr, .msr]

/-- The register offset of a group. -/
def IrqSource.offset : IrqSource → Nat
  | .tsr => 0x008
  | .rf0r => 0x00C
  | .rf1r => 0x010
  | .esr => 0x018
  | .msr => 0x004

/-- The mask bits of a group, lowest first (45 R240). -/
def IrqSource.bits : IrqSource → List Nat
  | .tsr => [0]
  | .rf0r => [1, 2, 3]
  | .rf1r => [4, 5, 6]
  | .esr => [8, 9, 10, 11]
  | .msr => [15, 16, 17]

/-- The mask part of a group (45_interrupt_status.md, groups). -/
def IrqSource.part : IrqSource → Word
  | .tsr => 0x00000001
  | .rf0r => 0x0000000E
  | .rf1r => 0x00000070
  | .esr => 0x00000F00
  | .msr => 0x00038000

/-- cond(b, t): the condition of row b of 45 R240, on the value t read from its register. -/
def irqCond (b : Nat) (t : Word) : Bool :=
  match b with
  | 0 => t.getLsbD 0 || t.getLsbD 8 || t.getLsbD 16
  | 1 | 4 => t.extractLsb' 0 2 != 0
  | 2 | 5 => t.getLsbD 3
  | 3 | 6 => t.getLsbD 4
  | 8 => t.getLsbD 0
  | 9 => t.getLsbD 1
  | 10 => t.getLsbD 2
  | 11 => t.extractLsb' 4 3 != 0
  | 15 => t.getLsbD 2
  | 16 => t.getLsbD 3
  | 17 => t.getLsbD 4
  | _ => false

/-- clearbits(b, t): what IRQ.CLR writes back for row b (45 R242). -/
def irqClearBits (b : Nat) (t : Word) : Word :=
  match b with
  | 0 => t &&& 0x00010101
  | 2 | 5 => 0x00000008
  | 3 | 6 => 0x00000010
  | 15 => 0x00000004
  | 16 => 0x00000008
  | 17 => 0x00000010
  | _ => 0

/-- The bits of a group that the mask k asks for and whose condition holds on t (45 R241). -/
def IrqSource.hits (g : IrqSource) (k t : Word) : List Nat := g.bits.filter fun b => k.getLsbD b && irqCond b t

/-- The OR of 1 << b over a list of bits. -/
def orBits (l : List Nat) : Word := l.foldl (fun p b => p ||| bitAt true b) 0

/-- The groups a mask visits: those with a nonzero mask part (45_interrupt_status.md). -/
def irqVisited (k : Word) : List IrqSource := irqSources.filter fun g => k &&& g.part != 0

/-! ### Interrupt request lines -/

/-- IRQ_TX (60 R288). -/
def Ctrl.irqTx (r : Ctrl) : Bool := r.ier.getLsbD 0 && ((r.mb 0).rqcp || (r.mb 1).rqcp || (r.mb 2).rqcp)

/-- The line of a FIFO, with its three enables: FMPIE, FFIE, FOVIE. -/
def Fifo.line (x : Fifo) (fmpie ffie fovie : Bool) : Bool :=
  (fmpie && x.q.length != 0) || (ffie && x.full) || (fovie && x.fovr)

/-- IRQ_RX0 (60 R288). -/
def Ctrl.irqRx0 (r : Ctrl) : Bool := (r.fifo 0).line (r.ier.getLsbD 1) (r.ier.getLsbD 2) (r.ier.getLsbD 3)

/-- IRQ_RX1 (60 R288). -/
def Ctrl.irqRx1 (r : Ctrl) : Bool := (r.fifo 1).line (r.ier.getLsbD 4) (r.ier.getLsbD 5) (r.ier.getLsbD 6)

/-- IRQ_SCE (60 R288). -/
def Ctrl.irqSce (r : Ctrl) : Bool :=
  (r.ier.getLsbD 15 && r.msr.erri) || (r.ier.getLsbD 16 && r.msr.wkui) || (r.ier.getLsbD 17 && r.msr.slaki)

end Sys2Proof.Machine
end

