-- ==== Sys2Proof/Machine/Engine.lean ====
section
/-! DEFINITION. The steps of the agents TXE, RXE and ENV (43 R206 to R212, 44 R231 to R233, 60 R296, R297): when each
is enabled and what it does; a step that is not enabled is not taken (log 4). -/

namespace Sys2Proof.Machine

/-! ### When a step is enabled -/

/-- Under TX_ORDER = Assumed only the first pending mailbox may complete or be attempted (43 R206, R207). -/
def Ctrl.orderAllows (r : Ctrl) (p : Params) (m : Fin 3) : Bool :=
  match p.txOrder with
  | .any => true
  | .assumed => r.isFirst m

/-- TXE.COMPLETE is enabled (43 R206, R210). -/
def Ctrl.canComplete (r : Ctrl) (p : Params) (m : Fin 3) (o : TxOutcome) : Bool :=
  (r.mb m).txrq && r.mode == .normal && (o == .ok || r.nart) && r.orderAllows p m

/-- TXE.RETRY is enabled (43 R207, R210). -/
def Ctrl.canRetry (r : Ctrl) (p : Params) (m : Fin 3) (o : TxOutcome) : Bool :=
  (r.mb m).txrq && r.mode == .normal && !r.nart && o != .ok && r.orderAllows p m

/-- TXE.ABORT is enabled, in any mode (43 R212). -/
def Ctrl.canAbort (r : Ctrl) (m : Fin 3) : Bool := (r.mb m).abrq && (r.mb m).txrq

/-- RXE.DELIVER is enabled (44 R231): Normal mode, and an entry with bit 0 of its identifier word 0. -/
def Ctrl.canDeliver (r : Ctrl) (e : Entry) : Bool := r.mode == .normal && !e.rir.getLsbD 0

/-- RXE.RELEASE is enabled, in any mode (44 R233). -/
def Ctrl.canRelease (r : Ctrl) (f : Fin 2) : Bool := (r.fifo f).rfom

/-- ENV.ACK is enabled (60 R296). -/
def Ctrl.canAck (r : Ctrl) : Bool := (r.msr.inak, r.msr.slak) != r.target.ack

/-- ENV.WAKE is enabled (60 R297). -/
def Ctrl.canWake (r : Ctrl) : Bool := r.mode == .sleep

/-! ### What a step does -/

/-- The mailbox after COMPLETE (43 R206, R211); `stamp` and `bytes` are the draws of TIME and TDHmR[31:16]. -/
def Mailbox.completed (x : Mailbox) (ttcm : Bool) (o : TxOutcome) (stamp bytes : BitVec 64) : Mailbox :=
  { x with
    txrq := false
    rqcp := true
    txok := o == .ok
    alst := o == .alst
    terr := o == .terr
    abrq := false
    time := some (stamp.setWidth 16)
    tdh := if ttcm && x.tgt && x.dlc == 8 then bytes.setWidth 16 ++ x.tdh.extractLsb' 0 16 else x.tdh }

/-- The mailbox after RETRY (43 R207). -/
def Mailbox.retried (x : Mailbox) (o : TxOutcome) (stamp : BitVec 64) : Mailbox :=
  { x with
    txok := false
    alst := o == .alst
    terr := o == .terr
    time := some (stamp.setWidth 16) }

/-- The mailbox after ABORT (43 R212): ALST and TERR are unchanged. -/
def Mailbox.aborted (x : Mailbox) : Mailbox :=
  { x with txrq := false, abrq := false, rqcp := true, txok := false }

/-- The request order without m (43 R206, R212). -/
def Ctrl.dropRequest (r : Ctrl) (m : Fin 3) : Ctrl := { r with reqOrder := r.reqOrder.filter (· != m) }

/-- A FIFO after DELIVER (44 R231) with its overrun (R232); `rflm` is MCR.RFLM. -/
def Fifo.delivered (x : Fifo) (rflm : Bool) (e : Entry) : Fifo :=
  if x.q.length < 3 then
    { x with q := x.q ++ [e], full := x.full || (x.q ++ [e]).length == 3 }
  else
    { x with fovr := true, q := if rflm then x.q else x.q.take 2 ++ [e] }

/-- A FIFO after RELEASE (44 R233): FULL and FOVR stay. -/
def Fifo.released (x : Fifo) : Fifo := { x with q := x.q.tail, rfom := false }

/-- An instance after ENV.ACK (60 R296): SLAKI is set when SLAK rises. -/
def Ctrl.acked (r : Ctrl) : Ctrl :=
  { r with msr := { r.msr with
      inak := r.target.ack.1
      slak := r.target.ack.2
      slaki := r.msr.slaki || (!r.msr.slak && r.target.ack.2) } }

/-- An enabled error condition of ESR, which lets ENV.ERROR set ERRI (60 R297). -/
def Ctrl.errorEnabled (r : Ctrl) : Bool :=
  (r.ier.getLsbD 8 && r.esr.getLsbD 0) || (r.ier.getLsbD 9 && r.esr.getLsbD 1)
    || (r.ier.getLsbD 10 && r.esr.getLsbD 2) || (r.ier.getLsbD 11 && r.esr.extractLsb' 4 3 != 0)

/-- An instance after ENV.ERROR (60 R297): the new ESR, and ERRI where the environment sets it and may. -/
def Ctrl.errored (r : Ctrl) (esr : Word) (erri : Bool) : Ctrl :=
  let r' := { r with esr := esr &&& esrMask }
  { r' with msr := { r'.msr with erri := r'.msr.erri || (erri && r'.errorEnabled) } }

/-- An instance after ENV.WAKE (60 R297): WKUI set; under AWUM also SLEEP cleared. -/
def Ctrl.woken (r : Ctrl) : Ctrl :=
  { r with
    msr := { r.msr with wkui := true }
    mcr := if r.awum then r.mcr &&& 0xFFFFFFFD else r.mcr }

/-- The instance a step belongs to (43 R208, 44 R235). -/
def AgentStep.owner : AgentStep → Ctl
  | .complete c _ _ | .retry c _ _ | .abort c _ | .deliver c _ _ | .release c _ | .ack c | .error c _ _
  | .wake c => c

/-- A step is enabled in its instance. -/
def AgentStep.enabledIn (a : AgentStep) (p : Params) (r : Ctrl) : Bool :=
  match a with
  | .complete _ m o => r.canComplete p m o
  | .retry _ m o => r.canRetry p m o
  | .abort _ m => r.canAbort m
  | .deliver _ _ e => r.canDeliver e
  | .release _ f => r.canRelease f
  | .ack _ => r.canAck
  | .error _ _ _ => true
  | .wake _ => r.canWake

/-- What an enabled step does to its instance; `d0` and `d1` are its draws (43 R206, R207; 60 R293). -/
def AgentStep.effect (a : AgentStep) (d0 d1 : BitVec 64) (r : Ctrl) : Ctrl :=
  match a with
  | .complete _ m o => (r.setMb m ((r.mb m).completed r.ttcm o d0 d1)).dropRequest m
  | .retry _ m o => r.setMb m ((r.mb m).retried o d0)
  | .abort _ m => (r.setMb m (r.mb m).aborted).dropRequest m
  | .deliver _ f e => r.setFifo f ((r.fifo f).delivered r.rflm e)
  | .release _ f => r.setFifo f (r.fifo f).released
  | .ack _ => r.acked
  | .error _ esr erri => r.errored esr erri
  | .wake _ => r.woken

/-- One agent step: its effect on its instance if it is enabled, else nothing. Each step has two draw numbers of its
own, used or not. -/
def agentStep (s : State) (a : AgentStep) : State :=
  let r := s.ctl a.owner
  if a.enabledIn s.params r then
    (s.setCtl a.owner (a.effect (Config.draw s.draws) (Config.draw (s.draws + 1)) r)).advance 2
  else s

/-- A run of agent steps, in order. -/
def agentSteps (s : State) (l : List AgentStep) : State := l.foldl agentStep s

/-- The gap between two accesses of a command: the agent steps that fall into it happen (20 R85). -/
def runGap (s : State) : State :=
  match s.gaps with
  | [] => s
  | l :: rest => agentSteps (s.setGaps rest) l

/-- "Other agents may step here" (40 R132, 20 R85). -/
def gap : Cmd Unit := fun s => .ok () (runGap s)

end Sys2Proof.Machine
end

