-- ==== Sys2Proof/Machine/Registers.lean ====
section
/-! DEFINITION. The register window of an instance (20 R81), the value a read gives (40 R143 to R145), the effect of a
write (40 R133 to R142), and the two access primitives `memRead` and `memWrite` (40 R130, R131). -/

namespace Sys2Proof.Machine

/-- The registers of a window (10 R22): `rfr f` is RFfR, `ti m` TImR, `ri f` RIfR, `fr1 n` FnR1, and so on. -/
inductive Reg
  | mcr
  | msr
  | tsr
  | rfr (f : Fin 2)
  | ier
  | esr
  | btr
  | ti (m : Fin 3)
  | tdt (m : Fin 3)
  | tdl (m : Fin 3)
  | tdh (m : Fin 3)
  | ri (f : Fin 2)
  | rdt (f : Fin 2)
  | rdl (f : Fin 2)
  | rdh (f : Fin 2)
  | fmr
  | fm1r
  | fs1r
  | ffa1r
  | fa1r
  | fr1 (n : Fin 28)
  | fr2 (n : Fin 28)
  deriving DecidableEq, Repr

/-- The offset of a register in its window (10 R22). -/
def Reg.offset : Reg → Nat
  | .mcr => 0x000
  | .msr => 0x004
  | .tsr => 0x008
  | .rfr f => 0x00C + 0x4 * f.val
  | .ier => 0x014
  | .esr => 0x018
  | .btr => 0x01C
  | .ti m => 0x180 + 0x10 * m.val
  | .tdt m => 0x184 + 0x10 * m.val
  | .tdl m => 0x188 + 0x10 * m.val
  | .tdh m => 0x18C + 0x10 * m.val
  | .ri f => 0x1B0 + 0x10 * f.val
  | .rdt f => 0x1B4 + 0x10 * f.val
  | .rdl f => 0x1B8 + 0x10 * f.val
  | .rdh f => 0x1BC + 0x10 * f.val
  | .fmr => 0x200
  | .fm1r => 0x204
  | .fs1r => 0x20C
  | .ffa1r => 0x214
  | .fa1r => 0x21C
  | .fr1 n => 0x240 + 8 * n.val
  | .fr2 n => 0x244 + 8 * n.val

/-- A filter register, which only instance 0 holds (10 R40). -/
def Reg.isFilter : Reg → Bool
  | .fmr | .fm1r | .fs1r | .ffa1r | .fa1r | .fr1 _ | .fr2 _ => true
  | .mcr | .msr | .tsr | .rfr _ | .ier | .esr | .btr | .ti _ | .tdt _ | .tdl _ | .tdh _ => false
  | .ri _ | .rdt _ | .rdl _ | .rdh _ => false

/-- The control registers, offsets 0x000 to 0x01F (20 R81). -/
def controlReg (off : Nat) : Option Reg :=
  match off with
  | 0x000 => some .mcr
  | 0x004 => some .msr
  | 0x008 => some .tsr
  | 0x00C => some (.rfr 0)
  | 0x010 => some (.rfr 1)
  | 0x014 => some .ier
  | 0x018 => some .esr
  | 0x01C => some .btr
  | _ => none

/-- The four registers of a 0x10-stride block (20 R81): mailboxes 0..2, then FIFO outputs 0..1. -/
def blockReg (k lane : Nat) : Option Reg :=
  match k, lane with
  | 0, 0x0 => some (.ti 0)
  | 0, 0x4 => some (.tdt 0)
  | 0, 0x8 => some (.tdl 0)
  | 0, 0xC => some (.tdh 0)
  | 1, 0x0 => some (.ti 1)
  | 1, 0x4 => some (.tdt 1)
  | 1, 0x8 => some (.tdl 1)
  | 1, 0xC => some (.tdh 1)
  | 2, 0x0 => some (.ti 2)
  | 2, 0x4 => some (.tdt 2)
  | 2, 0x8 => some (.tdl 2)
  | 2, 0xC => some (.tdh 2)
  | 3, 0x0 => some (.ri 0)
  | 3, 0x4 => some (.rdt 0)
  | 3, 0x8 => some (.rdl 0)
  | 3, 0xC => some (.rdh 0)
  | 4, 0x0 => some (.ri 1)
  | 4, 0x4 => some (.rdt 1)
  | 4, 0x8 => some (.rdl 1)
  | 4, 0xC => some (.rdh 1)
  | _, _ => none

/-- The filter master, mode, scale, FIFO and activation registers (20 R81). -/
def filterReg (off : Nat) : Option Reg :=
  match off with
  | 0x200 => some .fmr
  | 0x204 => some .fm1r
  | 0x20C => some .fs1r
  | 0x214 => some .ffa1r
  | 0x21C => some .fa1r
  | _ => none

/-- The content registers of the filter banks, offsets 0x240 to 0x31F (20 R81). -/
def bankReg (off : Nat) : Option Reg :=
  if h : 0x240 ≤ off ∧ off < 0x320 then
    let n : Fin 28 := ⟨(off - 0x240) / 8, by omega⟩
    if off % 8 = 0 then some (.fr1 n) else if off % 8 = 4 then some (.fr2 n) else none
  else none

/-- The register at an offset of instance c's window, none where the offset is unaligned or unmapped (20 R81, R83). -/
def regAt (c : Ctl) (off : Nat) : Option Reg :=
  if off < 0x180 then controlReg off
  else if off < 0x200 then blockReg ((off - 0x180) / 0x10) (off % 0x10)
  else match c with
    | .primary => if off < 0x240 then filterReg off else bankReg off
    | .secondary => none

/-! ### Read values -/

/-- A FIFO's head, none while it is empty or its release is pending (40 R144). -/
def Fifo.shown (x : Fifo) : Option Entry := if x.rfom then none else x.q.head?

/-- The value a FIFO output register gives of the shown entry, a draw where none is shown (40 R144). -/
def readOutput (x : Fifo) (view : Entry → Word) (d : BitVec 64) : Word :=
  match x.shown with
  | none => d.setWidth 32
  | some e => view e

/-- RIfR of an entry: bit 0 is a draw (40 R144). -/
def Entry.riWord (e : Entry) (d : BitVec 64) : Word := overlay 0xFFFFFFFE e.rir d

/-- RDTfR of an entry: {time, fmi, draw_4, dlc} (40 R144). -/
def Entry.rdtWord (e : Entry) (d : BitVec 64) : Word :=
  overlay rdtMask (e.time ++ e.fmi ++ (0 : BitVec 4) ++ e.dlc) d

/-- TImR of a mailbox: {TImR[31:1], TXRQ} (40 R143). -/
def Mailbox.tiWord (x : Mailbox) : Word := x.ident ++ BitVec.ofBool x.txrq

/-- TDTmR of a mailbox: {TIME, draw_7, TGT, draw_4, DLC}, TIME a draw before the first stamp (40 R143). -/
def Mailbox.tdtWord (x : Mailbox) (d : BitVec 64) : Word :=
  overlay tdtMask
    (x.time.getD (d.extractLsb' 32 16) ++ (0 : BitVec 7) ++ BitVec.ofBool x.tgt ++ (0 : BitVec 4) ++ x.dlc) d

/-- A host read of a register with a Written flag: F_UNWRITTEN_READ where the flag is false (40 R143, R145; 10 R44). -/
def readWritten (c : Ctl) (r : Reg) (written : Bool) (v : Word) : Except Fault Word :=
  if written then .ok v else .error (.unwrittenRead c r.offset)

/-- read_value(inst, off) (40 R143): draw number `s.draws` fills the undefined bits, the next one is choose(E) of
CODE. -/
def readReg (c : Ctl) (r : Reg) (s : State) : Except Fault Word :=
  let k := s.ctl c
  let d := Config.draw s.draws
  match r with
  | .mcr => .ok (overlay mcrReadMask (k.mcr &&& mcrMask) d)
  | .msr => .ok (overlay msrMask k.msr.word d)
  | .tsr => .ok (overlay tsrMask (k.tsrWord s.params (Config.draw (s.draws + 1))) d)
  | .rfr f => .ok (overlay rfrMask (k.fifo f).word d)
  | .ier => .ok (overlay ierMask k.ier d)
  | .esr => .ok (overlay esrMask k.esr d)
  | .btr => .ok (overlay (btrMask s.params) k.btr d)
  | .ti m => readWritten c r (k.mb m).wroteTi (k.mb m).tiWord
  | .tdt m => readWritten c r (k.mb m).wroteTdt ((k.mb m).tdtWord d)
  | .tdl m => readWritten c r (k.mb m).wroteTdl (k.mb m).tdl
  | .tdh m => readWritten c r (k.mb m).wroteTdh (k.mb m).tdh
  | .ri f => .ok (readOutput (k.fifo f) (fun e => e.riWord d) d)
  | .rdt f => .ok (readOutput (k.fifo f) (fun e => e.rdtWord d) d)
  | .rdl f => .ok (readOutput (k.fifo f) (fun e => e.data.extractLsb' 0 32) d)
  | .rdh f => .ok (readOutput (k.fifo f) (fun e => e.data.extractLsb' 32 32) d)
  | .fmr => .ok (overlay fmrMask s.filters.fmr d)
  | .fm1r => .ok (overlay bankMask s.filters.fm1r d)
  | .fs1r => .ok (overlay bankMask s.filters.fs1r d)
  | .ffa1r => .ok (overlay bankMask s.filters.ffa1r d)
  | .fa1r => .ok (overlay bankMask s.filters.fa1r d)
  | .fr1 n => readWritten c r (s.filters.bank n).wrote1 (s.filters.bank n).r1
  | .fr2 n => readWritten c r (s.filters.bank n).wrote2 (s.filters.bank n).r2

/-! ### Write effects -/

/-- MCR (40 R133): the Init-only check, the fields, then the software reset. -/
def writeMcr (c : Ctl) (v : Word) : Cmd Unit := fun s =>
  let k := s.ctl c
  if k.msr.inak = false ∧ v &&& initOnlyMask ≠ k.mcr &&& initOnlyMask then
    .error (.notInit c Reg.mcr.offset) s
  else
    let s' := s.setCtl c { k with mcr := v &&& mcrMask }
    .ok () (if v.getLsbD 15 then softwareReset c s' else s')

/-- MSR (40 R134): a 1 clears ERRI, WKUI, SLAKI. -/
def writeMsr (c : Ctl) (v : Word) : Cmd Unit := fun s =>
  let k := s.ctl c
  .ok () (s.setCtl c { k with msr := { k.msr with
    erri := k.msr.erri && !v.getLsbD 2
    wkui := k.msr.wkui && !v.getLsbD 3
    slaki := k.msr.slaki && !v.getLsbD 4 } })

/-- A mailbox's flags after a TSR write whose byte for it is `v` bits b to b+7 (40 R135). -/
def Mailbox.tsrWritten (x : Mailbox) (v : Word) (b : Nat) : Mailbox :=
  { x with
    rqcp := x.rqcp && !v.getLsbD b
    txok := x.txok && !v.getLsbD b && !v.getLsbD (b + 1)
    alst := x.alst && !v.getLsbD b && !v.getLsbD (b + 2)
    terr := x.terr && !v.getLsbD b && !v.getLsbD (b + 3)
    abrq := x.abrq || (v.getLsbD (b + 7) && x.txrq) }

/-- TSR (40 R135). -/
def writeTsr (c : Ctl) (v : Word) : Cmd Unit := fun s =>
  let k := s.ctl c
  .ok () (s.setCtl c (((k.setMb 0 ((k.mb 0).tsrWritten v 0)).setMb 1 ((k.mb 1).tsrWritten v 8)).setMb 2
    ((k.mb 2).tsrWritten v 16)))

/-- A FIFO after an RFfR write (40 R136): a release request on an empty FIFO has no effect. -/
def Fifo.rfrWritten (x : Fifo) (v : Word) : Fifo :=
  { x with
    full := x.full && !v.getLsbD 3
    fovr := x.fovr && !v.getLsbD 4
    rfom := x.rfom || (v.getLsbD 5 && decide (0 < x.q.length)) }

/-- RFfR (40 R136). -/
def writeRfr (c : Ctl) (f : Fin 2) (v : Word) : Cmd Unit := fun s =>
  .ok () (s.setFifo c f ((s.fifo c f).rfrWritten v))

/-- IER (40 R137). -/
def writeIer (c : Ctl) (v : Word) : Cmd Unit := fun s =>
  .ok () (s.setCtl c { s.ctl c with ier := v &&& ierMask })

/-- ESR (40 R137): LEC only. -/
def writeEsr (c : Ctl) (v : Word) : Cmd Unit := fun s =>
  .ok () (s.setCtl c { s.ctl c with esr := ((s.ctl c).esr &&& ~~~lecMask) ||| (v &&& lecMask) })

/-- BTR (40 R138). -/
def writeBtr (c : Ctl) (v : Word) : Cmd Unit := fun s =>
  let k := s.ctl c
  if k.msr.inak = false ∧ v &&& btrMask s.params ≠ k.btr &&& btrMask s.params then
    .error (.notInit c Reg.btr.offset) s
  else .ok () (s.setCtl c { k with btr := v &&& btrMask s.params })

/-- The register whose missing content makes a transmit request fault, first in the order of 40 R139. -/
def Mailbox.missing (x : Mailbox) (m : Fin 3) : Option Reg :=
  if !x.wroteTdt then some (.tdt m)
  else if 0 < nbytes x.dlc ∧ !x.wroteTdl then some (.tdl m)
  else if 4 < nbytes x.dlc ∧ !x.wroteTdh then some (.tdh m)
  else none

/-- The mailbox once TXRQ is set (40 R139). -/
def Mailbox.requested (x : Mailbox) : Mailbox :=
  { x with txrq := true, rqcp := false, txok := false, alst := false, terr := false }

/-- TImR (40 R139): the identifier is stored before the transmit request is checked. -/
def writeTi (c : Ctl) (m : Fin 3) (v : Word) : Cmd Unit := fun s =>
  let x := s.mb c m
  if x.txrq then .error (.mailboxBusy c m) s
  else
    let x' := { x with ident := v.extractLsb' 1 31, wroteTi := true }
    let s' := s.setMb c m x'
    if v.getLsbD 0 then
      match x'.missing m with
      | some r => .error (.unwrittenRead c r.offset) s'
      | none =>
        let k := (s'.ctl c).setMb m x'.requested
        .ok () (s'.setCtl c { k with reqOrder := k.reqOrder ++ [m] })
    else .ok () s'

/-- TDTmR, TDLmR and TDHmR (40 R140): a pending mailbox is not written. -/
def writeData (c : Ctl) (m : Fin 3) (f : Mailbox → Mailbox) : Cmd Unit := fun s =>
  if (s.mb c m).txrq then .error (.mailboxBusy c m) s
  else .ok () (s.setMb c m (f (s.mb c m)))

/-- TDTmR: DLC and TGT; TIME is read-only (40 R140). -/
def Mailbox.setTdt (x : Mailbox) (v : Word) : Mailbox :=
  { x with dlc := v.extractLsb' 0 4, tgt := v.getLsbD 8, wroteTdt := true }

/-- TDLmR (40 R140). -/
def Mailbox.setTdl (x : Mailbox) (v : Word) : Mailbox := { x with tdl := v, wroteTdl := true }

/-- TDHmR (40 R140). -/
def Mailbox.setTdh (x : Mailbox) (v : Word) : Mailbox := { x with tdh := v, wroteTdh := true }

/-- Filter-init mode, FMR.FINIT (10 R40). -/
def Filters.finit (x : Filters) : Bool := x.fmr.getLsbD 0

/-- Bank n is active, FA1R[n] (10 R40). -/
def Filters.active (x : Filters) (n : Fin 28) : Bool := x.fa1r.getLsbD n.val

/-- FM1R, FS1R and FFA1R (40 R142): filter-init mode, and no active bank changes. -/
def writeBankBits (off : Nat) (old v : Word) (put : Filters → Filters) : Cmd Unit := fun s =>
  if s.filters.finit = false ∨ (v ^^^ old) &&& bankMask &&& s.filters.fa1r ≠ 0 then .error (.filterLocked off) s
  else .ok () (s.setFilters (put s.filters))

/-- FnR1 and FnR2 (40 R142): filter-init mode, and the bank inactive. -/
def writeBank (off : Nat) (n : Fin 28) (put : Bank → Bank) : Cmd Unit := fun s =>
  if s.filters.finit = false ∨ s.filters.active n then .error (.filterLocked off) s
  else .ok () (s.setFilters (s.filters.setBank n (put (s.filters.bank n))))

/-- FM1R, with the register's own old value (40 R142). -/
def writeFm1r (v : Word) : Cmd Unit := fun s =>
  writeBankBits Reg.fm1r.offset s.filters.fm1r v (fun x => { x with fm1r := v &&& bankMask }) s

/-- FS1R (40 R142). -/
def writeFs1r (v : Word) : Cmd Unit := fun s =>
  writeBankBits Reg.fs1r.offset s.filters.fs1r v (fun x => { x with fs1r := v &&& bankMask }) s

/-- FFA1R (40 R142). -/
def writeFfa1r (v : Word) : Cmd Unit := fun s =>
  writeBankBits Reg.ffa1r.offset s.filters.ffa1r v (fun x => { x with ffa1r := v &&& bankMask }) s

/-- FMR (40 R142): at any time. -/
def writeFmr (v : Word) : Cmd Unit := fun s =>
  .ok () (s.setFilters { s.filters with fmr := v &&& fmrMask })

/-- FA1R (40 R142): at any time. -/
def writeFa1r (v : Word) : Cmd Unit := fun s =>
  .ok () (s.setFilters { s.filters with fa1r := v &&& bankMask })

/-- A write without effect: the read-only FIFO output registers (40 R141). -/
def writeNothing : Cmd Unit := fun s => .ok () s

/-- write_effect(inst, off, v) (40 R133 to R142). -/
def writeReg (c : Ctl) (r : Reg) (v : Word) : Cmd Unit :=
  match r with
  | .mcr => writeMcr c v
  | .msr => writeMsr c v
  | .tsr => writeTsr c v
  | .rfr f => writeRfr c f v
  | .ier => writeIer c v
  | .esr => writeEsr c v
  | .btr => writeBtr c v
  | .ti m => writeTi c m v
  | .tdt m => writeData c m (fun x => x.setTdt v)
  | .tdl m => writeData c m (fun x => x.setTdl v)
  | .tdh m => writeData c m (fun x => x.setTdh v)
  | .ri _ | .rdt _ | .rdl _ | .rdh _ => writeNothing
  | .fmr => writeFmr v
  | .fm1r => writeFm1r v
  | .fs1r => writeFs1r v
  | .ffa1r => writeFfa1r v
  | .fa1r => writeFa1r v
  | .fr1 n => writeBank (Reg.fr1 n).offset n (fun b => { b with r1 := v, wrote1 := true })
  | .fr2 n => writeBank (Reg.fr2 n).offset n (fun b => { b with r2 := v, wrote2 := true })

/-! ### The access primitives -/

/-- Reads a mapped register; a read that gives a value takes its two draw numbers, used or not. -/
def readAt (c : Ctl) (r : Reg) : Cmd Word := fun s =>
  match readReg c r s with
  | .error f => .error f s
  | .ok v => .ok v (s.advance 2)

/-- MemRead(inst, off, n) (40 R130): the width, then the offset, then the register's value. -/
def memRead (c : Ctl) (off n : Nat) : Cmd Word :=
  if n = 4 then
    match regAt c off with
    | some r => readAt c r
    | none => raise (.badOffset c off)
  else raise (.badWidth c off n)

/-- MemWrite(inst, off, n, v) (40 R131): the width, then the offset, then the register's effect. -/
def memWrite (c : Ctl) (off n : Nat) (v : Word) : Cmd Unit :=
  if n = 4 then
    match regAt c off with
    | some r => writeReg c r v
    | none => raise (.badOffset c off)
  else raise (.badWidth c off n)

end Sys2Proof.Machine
end

