-- ==== Sys2Proof/Machine/BitTiming.lean ====
section
/-! DEFINITION. The bit-timing commands BT.SYNTH, BT.FREQ, BT.APPLY, BT.READ and BT.CLEAR (41 R151 to R156). -/

namespace Sys2Proof.Machine

/-- One decrement of the search (41 R151): ts2 where the requested point lies after the current one, else ts1. -/
def synthNext (sp ts1 ts2 : Nat) : Nat × Nat :=
  if sp * (1 + ts1 + ts2) > 256 * (ts1 + 1) then (ts1, ts2 - 1) else (ts1 - 1, ts2)

/-- The search loop of 41 R151, from the split (ts1, ts2). Each pass lowers ts1 + ts2 by one, so that a fuel of
ts1 + ts2 passes never runs out (41 R152). -/
def synthSearch (q0 sp : Nat) : Nat → Nat → Nat → Option (Nat × Nat)
  | 0, _, _ => none
  | fuel + 1, ts1, ts2 =>
    if q0 % (1 + ts1 + ts2) = 0 then some (ts1, ts2)
    else
      let n := synthNext sp ts1 ts2
      if n.1 = 0 ∨ n.2 = 0 then none else synthSearch q0 sp fuel n.1 n.2

/-- The descriptor of BT.SYNTH, none where synthesis fails (41 R151). -/
def synth (fref fbus sp : Nat) : Option Desc :=
  if fbus = 0 then none
  else
    match synthSearch (fref / fbus) sp 19 14 5 with
    | none => none
    | some (ts1, ts2) =>
      let presc := fref / fbus / (1 + ts1 + ts2)
      if presc < 1 ∨ presc > 512 then none else some ⟨presc, ts1, ts2, min ts2 4⟩

/-- BT.SYNTH's results: ok and the descriptor, or ok = 0 and the zero descriptor (41 R151). -/
def synthResults (d : Option Desc) : Results :=
  match d with
  | none => Results.five 0 0 0 0 0
  | some d => Results.five 1 d.presc d.ts1 d.ts2 d.sjw

/-- BT.SYNTH (41 R151). -/
def execBtSynth (s : State) : Host.Outcome State Fault Refusal :=
  command s do
    let fref ← operand 1 32
    let fbus ← operand 2 32
    let sp ← operand 3 8
    return synthResults (synth fref fbus sp)

/-- BT.FREQ (41 R153): exact arithmetic, rounding down. -/
def execBtFreq (s : State) : Host.Outcome State Fault Refusal :=
  command s do
    let fref ← operand 1 32
    let presc ← operand 2 32
    let ts1 ← operand 3 32
    let ts2 ← operand 4 32
    let _sjw ← operand 5 32
    let den := (1 + ts1 + ts2) * presc
    if den = 0 then raise (.divZero presc) else return Results.one (fref / den)

/-- BT.APPLY (41 R154): the descriptor's own check, then a read and a write of BTR that keep SILM and LBKM. -/
def execBtApply (c : Ctl) (s : State) : Host.Outcome State Fault Refusal :=
  command s do
    let presc ← operand 1 32
    let ts1 ← operand 2 32
    let ts2 ← operand 3 32
    let sjw ← operand 4 32
    let d : Desc := ⟨presc, ts1, ts2, sjw⟩
    if d.legal then do
      let old ← memRead c 0x01C 4
      gap
      memWrite c 0x01C 4 ((old &&& 0xC0000000) ||| btrTiming d)
      return Results.absent
    else raise (.descRange d)

/-- BT.READ (41 R155). -/
def execBtRead (c : Ctl) (s : State) : Host.Outcome State Fault Refusal :=
  command s do
    let v ← memRead c 0x01C 4
    let d := descOf s.params v
    return Results.four d.presc d.ts1 d.ts2 d.sjw

/-- BT.CLEAR (41 R156). -/
def execBtClear (c : Ctl) (s : State) : Host.Outcome State Fault Refusal :=
  command s do
    memWrite c 0x01C 4 0
    return Results.absent

end Sys2Proof.Machine
end

