-- ==== Sys2Proof/Machine/FilterWords.lean ====
section
/-! DEFINITION. The filter-word commands FW.ENC16, FW.DEC16, FW.L32, FW.L16, FW.M32 and FW.M16 (42 R170 to R175): pure,
they read only their operands and the parameters. -/

namespace Sys2Proof.Machine

/-- FW.L32 (42 R172): bit 0 of each word cleared, no canon. -/
def execFwL32 (s : State) : Host.Outcome State Fault Refusal :=
  command s do
    let id1 ← operandWord 1
    let id2 ← operandWord 2
    return Results.two (id1 &&& 0xFFFFFFFE).toNat (id2 &&& 0xFFFFFFFE).toNat

/-- FW.L16 (42 R173): the first identifier of each pair in the low half. -/
def execFwL16 (s : State) : Host.Outcome State Fault Refusal :=
  command s do
    let id1 ← operandWord 1
    let id2 ← operandWord 2
    let id3 ← operandWord 3
    let id4 ← operandWord 4
    let l := s.params.filt16
    return Results.two (enc16 l id2 ++ enc16 l id1).toNat (enc16 l id4 ++ enc16 l id3).toNat

/-- FW.M32 (42 R174). -/
def execFwM32 (s : State) : Host.Outcome State Fault Refusal :=
  command s do
    let id ← operandWord 1
    let k ← operandWord 2
    return Results.two (id &&& 0xFFFFFFFE).toNat (maskw32 s.params k).toNat

/-- FW.M16 (42 R175): each identifier in the low half, its mask in the high half. -/
def execFwM16 (s : State) : Host.Outcome State Fault Refusal :=
  command s do
    let id1 ← operandWord 1
    let k1 ← operandWord 2
    let id2 ← operandWord 3
    let k2 ← operandWord 4
    let l := s.params.filt16
    return Results.two (maskw16 s.params k1 ++ enc16 l id1).toNat (maskw16 s.params k2 ++ enc16 l id2).toNat

/-- FW.ENC16 (42 R170). -/
def execFwEnc16 (s : State) : Host.Outcome State Fault Refusal :=
  command s do
    let m ← operandWord 1
    return Results.one (enc16 s.params.filt16 m).toNat

/-- FW.DEC16 (42 R171). -/
def execFwDec16 (s : State) : Host.Outcome State Fault Refusal :=
  command s do
    let h ← operand 1 16
    return Results.one (dec16 s.params.filt16 (BitVec.ofNat 16 h)).toNat

end Sys2Proof.Machine
end

