-- ==== Sys2Proof/Machine/Interrupt.lean ====
section
/-! DEFINITION. The interrupt commands IRQ.PEND and IRQ.CLR (45 R241, R242). -/

namespace Sys2Proof.Machine

/-- The mask operand: F_OPERAND_RANGE for a bit outside IRQMASK (45 R241). -/
def irqOperand : Cmd Word := do
  let k ← operandWord 1
  if k &&& ~~~irqMask = 0 then return k else raise (.operandRange 1 k.toNat)

/-- The gap before the next group's read, where there is a next group (20 R85). -/
def gapBefore : List IrqSource → Cmd Unit
  | [] => pure ()
  | _ :: _ => gap

/-- What IRQ.CLR writes back to a group's register: the W1C bits of the asserted conditions (45 R242). -/
def IrqSource.clearWord (g : IrqSource) (k t : Word) : Word :=
  (g.hits k t).foldl (fun w b => w ||| irqClearBits b t) 0

/-- IRQ.PEND's loop: reads the groups in order and gathers the asserted conditions (45 R241). -/
def irqPendLoop (c : Ctl) (k : Word) : List IrqSource → Word → Cmd Word
  | [], p => pure p
  | g :: gs, p => do
    let t ← memRead c g.offset 4
    gapBefore gs
    irqPendLoop c k gs (p ||| orBits (g.hits k t))

/-- The write-back of a group: only where there is something to clear (45 R242). -/
def irqWriteBack (c : Ctl) (g : IrqSource) (w : Word) : Cmd Unit :=
  if w = 0 then pure ()
  else do
    gap
    memWrite c g.offset 4 w

/-- IRQ.CLR's loop (45 R242). -/
def irqClrLoop (c : Ctl) (k : Word) : List IrqSource → Word → Cmd Word
  | [], p => pure p
  | g :: gs, p => do
    let t ← memRead c g.offset 4
    irqWriteBack c g (g.clearWord k t)
    gapBefore gs
    irqClrLoop c k gs (p ||| orBits (g.hits k t))

/-- IRQ.PEND (45 R241). -/
def execIrqPend (c : Ctl) (s : State) : Host.Outcome State Fault Refusal :=
  command s do
    let k ← irqOperand
    let p ← irqPendLoop c k (irqVisited k) 0
    return Results.two (p != 0).toNat p.toNat

/-- IRQ.CLR (45 R242). -/
def execIrqClr (c : Ctl) (s : State) : Host.Outcome State Fault Refusal :=
  command s do
    let k ← irqOperand
    let p ← irqClrLoop c k (irqVisited k) 0
    return Results.one p.toNat

end Sys2Proof.Machine
end

