-- ==== Sys2Proof/Machine/Receive.lean ====
section
/-! DEFINITION. The receive commands RX.READ, RX.RELEASE and RX.COUNT (44 R222 to R224). -/

namespace Sys2Proof.Machine

/-- rf_off(f): the offset of RFfR (44_receive.md). -/
def rfOff (f : Fin 2) : Nat := 0x00C + 0x4 * f.val

/-- ri_off(f): the offset of RIfR (44_receive.md). -/
def riOff (f : Fin 2) : Nat := 0x1B0 + 0x10 * f.val

/-- A FIFO index operand of a command, or F_ILLEGAL_COMMAND with the command's word (30 R111). -/
def withFifo (i : Instr) (idx : BitVec 2) (body : Fin 2 → Cmd Results) : Cmd Results :=
  match fifoOf idx with
  | some f => body f
  | none => raise (.illegalCommand (encode i))

/-- The frame decoder (44 R221), as the result record of RX.READ: MOBID, payload, DLC, FMI, TIME. -/
def decodeFrame (ri rdt lo hi : Word) : Results :=
  Results.five (canon (ri &&& 0xFFFFFFFE)).toNat (unpack lo hi).toNat (rdt.extractLsb' 0 4).toNat
    (rdt.extractLsb' 8 8).toNat (rdt.extractLsb' 16 16).toNat

/-- The release request: RFOM = 1, FULL and FOVR written 0 (44 R222, R223). -/
def requestRelease (c : Ctl) (f : Fin 2) : Cmd Unit := memWrite c (rfOff f) 4 0x00000020

/-- RX.READ (44 R222): four reads, then the release if asked. -/
def execRxRead (c : Ctl) (idx : BitVec 2) (rel : Bool) (s : State) : Host.Outcome State Fault Refusal :=
  command s (withFifo (.rxRead c idx rel) idx fun f => do
    let ri ← memRead c (riOff f + 0x0) 4
    gap
    let rdt ← memRead c (riOff f + 0x4) 4
    gap
    let lo ← memRead c (riOff f + 0x8) 4
    gap
    let hi ← memRead c (riOff f + 0xC) 4
    if rel then do
      gap
      requestRelease c f
      return decodeFrame ri rdt lo hi
    else return decodeFrame ri rdt lo hi)

/-- RX.RELEASE (44 R223). -/
def execRxRelease (c : Ctl) (idx : BitVec 2) (s : State) : Host.Outcome State Fault Refusal :=
  command s (withFifo (.rxRelease c idx) idx fun f => do
    requestRelease c f
    return Results.absent)

/-- RX.COUNT (44 R224). -/
def execRxCount (c : Ctl) (idx : BitVec 2) (s : State) : Host.Outcome State Fault Refusal :=
  command s (withFifo (.rxCount c idx) idx fun f => do
    let t ← memRead c (rfOff f) 4
    return Results.four (t.extractLsb' 0 2).toNat (t.getLsbD 3).toNat (t.getLsbD 4).toNat (t.getLsbD 5).toNat)

end Sys2Proof.Machine
end

