-- ==== Sys2Proof/Machine/RegAccess.lean ====
section
/-! DEFINITION. The register access commands REG.RD, REG.WR and REG.RMW (40 R130 to R132). -/

namespace Sys2Proof.Machine

/-- REG.RD (40 R130). -/
def execRegRd (c : Ctl) (s : State) : Host.Outcome State Fault Refusal :=
  command s do
    let off ← operand 1 32
    let v ← memRead c off 4
    return Results.one v.toNat

/-- REG.WR (40 R131). -/
def execRegWr (c : Ctl) (s : State) : Host.Outcome State Fault Refusal :=
  command s do
    let off ← operand 1 32
    let v ← operandWord 2
    memWrite c off 4 v
    return Results.absent

/-- REG.RMW (40 R132): two accesses, with a gap between them. -/
def execRegRmw (c : Ctl) (s : State) : Host.Outcome State Fault Refusal :=
  command s do
    let off ← operand 1 32
    let clr ← operandWord 2
    let set ← operandWord 3
    let old ← memRead c off 4
    gap
    memWrite c off 4 ((old &&& ~~~clr) ||| set)
    return Results.one old.toNat

end Sys2Proof.Machine
end

