-- ==== Sys2Proof/Machine/Transmit.lean ====
section
/-! DEFINITION. The transmit commands TX.SELECT, TX.SEND, TX.READBACK and TX.STATUS (43 R191 to R195). -/

namespace Sys2Proof.Machine

/-- NO_MAILBOX (43 R191). -/
def noMailbox : Nat := 0xFF

/-- No mailbox is empty, by a TSR value: t[28:26] = 0b000 (43 R191). -/
def tsrNoneEmpty (t : Word) : Bool := t.extractLsb' 26 3 == 0

/-- CODE of a TSR value: t[25:24] (43 R191). -/
def tsrCode (t : Word) : Nat := (t.extractLsb' 24 2).toNat

/-- The payload TX.SEND writes: lanes 0..n-1 of the operand, any value above (43 R192). -/
def sentPayload (p : BitVec 64) (n : Nat) (d : BitVec 64) : BitVec 64 := (p &&& keepMask n) ||| (d &&& ~~~keepMask n)

/-- A mailbox index operand of a command, or F_ILLEGAL_COMMAND with the command's word (30 R111). -/
def withMailbox (i : Instr) (idx : BitVec 2) (body : Fin 3 → Cmd Results) : Cmd Results :=
  match mailboxOf idx with
  | some m => body m
  | none => raise (.illegalCommand (encode i))

/-- The frame encoder of TX.SEND after its TSR read: the six further accesses, in order (43 R192). -/
def sendInto (c : Ctl) (b : Nat) (mobid : Word) (p : BitVec 64) (dlc : BitVec 4) : Cmd Unit := do
  gap
  memWrite c (b + 0x0) 4 (canon mobid &&& 0xFFFFFFFE)
  gap
  memWrite c (b + 0x4) 4 (dlc.setWidth 32)
  let d ← draw
  let w := sentPayload p (nbytes dlc) d
  gap
  memWrite c (b + 0x8) 4 (packLo w)
  gap
  memWrite c (b + 0xC) 4 (packHi w)
  gap
  let r ← memRead c (b + 0x0) 4
  gap
  memWrite c (b + 0x0) 4 (r ||| 0x1)

/-- TX.SELECT (43 R191). -/
def execTxSelect (c : Ctl) (s : State) : Host.Outcome State Fault Refusal :=
  command s do
    let t ← memRead c 0x008 4
    return Results.one (if tsrNoneEmpty t then noMailbox else tsrCode t)

/-- TX.SEND (43 R192): one TSR read gives the empty check and the mailbox (92 D45). -/
def execTxSend (c : Ctl) (s : State) : Host.Outcome State Fault Refusal :=
  command s do
    let mobid ← operandWord 1
    let p ← operand 2 64
    let len ← operand 3 8
    let t ← memRead c 0x008 4
    if tsrNoneEmpty t then return Results.one noMailbox
    else do
      sendInto c (0x180 + 0x10 * tsrCode t) mobid (BitVec.ofNat 64 p) (BitVec.ofNat 4 len)
      return Results.one (tsrCode t)

/-- TX.READBACK (43 R194): the MOBID is returned as stored. -/
def execTxReadback (c : Ctl) (idx : BitVec 2) (s : State) : Host.Outcome State Fault Refusal :=
  command s (withMailbox (.txReadback c idx) idx fun m => do
    let b := 0x180 + 0x10 * m.val
    let ti ← memRead c (b + 0x0) 4
    gap
    let tdt ← memRead c (b + 0x4) 4
    gap
    let lo ← memRead c (b + 0x8) 4
    gap
    let hi ← memRead c (b + 0xC) 4
    return Results.five (ti &&& 0xFFFFFFFE).toNat (unpack lo hi).toNat (tdt.extractLsb' 0 4).toNat
      (tdt.getLsbD 8).toNat (tdt.extractLsb' 16 16).toNat)

/-- TX.STATUS (43 R195): one TSR read. -/
def execTxStatus (c : Ctl) (idx : BitVec 2) (s : State) : Host.Outcome State Fault Refusal :=
  command s (withMailbox (.txStatus c idx) idx fun m => do
    let t ← memRead c 0x008 4
    let b := 8 * m.val
    return Results.five (t.getLsbD (26 + m.val)).toNat (t.getLsbD (b + 0)).toNat (t.getLsbD (b + 1)).toNat
      (t.getLsbD (b + 2)).toNat (t.getLsbD (b + 3)).toNat)

end Sys2Proof.Machine
end

