-- ==== Sys2Proof/Machine/Dispatch.lean ====
section
/-! DEFINITION. One arm per command (30 R112). -/

namespace Sys2Proof.Machine

def exec (i : Instr) (s : State) : Host.Outcome State Fault Refusal :=
  match i with
  | .regRd c => Sys2Proof.Machine.execRegRd c s
  | .regWr c => Sys2Proof.Machine.execRegWr c s
  | .regRmw c => Sys2Proof.Machine.execRegRmw c s
  | .btSynth => Sys2Proof.Machine.execBtSynth s
  | .btFreq => Sys2Proof.Machine.execBtFreq s
  | .btApply c => Sys2Proof.Machine.execBtApply c s
  | .btRead c => Sys2Proof.Machine.execBtRead c s
  | .btClear c => Sys2Proof.Machine.execBtClear c s
  | .fwL32 => Sys2Proof.Machine.execFwL32 s
  | .fwL16 => Sys2Proof.Machine.execFwL16 s
  | .fwM32 => Sys2Proof.Machine.execFwM32 s
  | .fwM16 => Sys2Proof.Machine.execFwM16 s
  | .fwEnc16 => Sys2Proof.Machine.execFwEnc16 s
  | .fwDec16 => Sys2Proof.Machine.execFwDec16 s
  | .idEnc => Sys2Proof.Machine.execIdEnc s
  | .idDec => Sys2Proof.Machine.execIdDec s
  | .idCmp => Sys2Proof.Machine.execIdCmp s
  | .idCmpm => Sys2Proof.Machine.execIdCmpm s
  | .idCmps => Sys2Proof.Machine.execIdCmps s
  | .idCmpsm => Sys2Proof.Machine.execIdCmpsm s
  | .idMkstd => Sys2Proof.Machine.execIdMkstd s
  | .idMkext => Sys2Proof.Machine.execIdMkext s
  | .idFields => Sys2Proof.Machine.execIdFields s
  | .txSelect c => Sys2Proof.Machine.execTxSelect c s
  | .txSend c => Sys2Proof.Machine.execTxSend c s
  | .txReadback c idx => Sys2Proof.Machine.execTxReadback c idx s
  | .txStatus c idx => Sys2Proof.Machine.execTxStatus c idx s
  | .rxRead c idx rel => Sys2Proof.Machine.execRxRead c idx rel s
  | .rxRelease c idx => Sys2Proof.Machine.execRxRelease c idx s
  | .rxCount c idx => Sys2Proof.Machine.execRxCount c idx s
  | .irqPend c => Sys2Proof.Machine.execIrqPend c s
  | .irqClr c => Sys2Proof.Machine.execIrqClr c s

end Sys2Proof.Machine
end

