-- ==== Sys2Proof/Machine/Fetch.lean ====
section
/-! DEFINITION. What comes next: taking the next event of the agenda, and beginning a command (00 R5, 30 R110; log 4). -/

namespace Sys2Proof.Machine

/-- The next event and the state without it, none while nothing is scheduled. -/
def nextEvent (s : State) : Option (Event × State) :=
  match s.agenda with
  | [] => none
  | e :: rest => some (e, { s with agenda := rest })

/-- A command begins: its operand record is the current one, and no result is written yet (10 R20, 30 R113, R114). -/
def beginCommand (x : Operands) (s : State) : State := { s with ops := x, res := Results.absent }

/-- An illegal command word ends the run before any access (30 R111, 60 R283). -/
def illegalWord (w : Word) (s : State) : State := recordFault (.illegalCommand w) s

/-- The event that a command word stands for in a word numbered as the opcode table numbers it, with the operand
record of zeros (log 3). -/
def tableCommand (nbits w : Nat) : Event := .command (BitVec.ofNat 32 (w % 2 ^ nbits)) Operands.zero

end Sys2Proof.Machine
end

