-- ==== Sys2Proof/Machine/Run.lean ====
section
/-! DEFINITION. What one event does: a host command, a reset pulse, an agent step (00 R5). -/

namespace Sys2Proof.Machine

/-- A command: its word is decoded (30 R111), then the command runs as a whole, with the agent steps of its gaps. -/
def runCommand (w : Word) (x : Operands) (s : State) : Host.Outcome State Fault Refusal :=
  match decode w with
  | .ok i => exec i (beginCommand x s)
  | .error _ => .next (illegalWord w (beginCommand x s))

/-- One event. -/
def runEvent (e : Event) (s : State) : Host.Outcome State Fault Refusal :=
  match e with
  | .command w x => runCommand w x s
  | .reset c => .next (hostReset c s)
  | .agent a => .next (agentStep s a)

end Sys2Proof.Machine
end

