-- ==== Sys2Proof/Machine/Step.lean ====
section
/-! DEFINITION. One step of the machine: the next event of the agenda happens (00 R5). A recorded fault stops it
(60 R280). -/

namespace Sys2Proof.Machine

/-- One step. With nothing scheduled the block waits (70 R313). -/
def step (s : State) : Host.Outcome State Fault Refusal :=
  match s.fault with
  | some f => .fault f
  | none =>
    match nextEvent s with
    | none => .next s
    | some (e, s') => runEvent e s'

/-- s with a command placed as the host's next one (log 4). -/
def State.withFetchWord (s : State) (nbits w : Nat) : State := { s with agenda := tableCommand nbits w :: s.agenda }

end Sys2Proof.Machine
end

