-- ==== Sys2Proof/Safety.lean ====
section
/-! DEFINITION. What counts as a safe run, and the invariant of the machine. A run is safe while no fault is recorded
(60 R280: a claim about a program must prove that no fault is reached). -/

namespace Sys2Proof.Machine

/-- No fault is recorded (10 R45). -/
abbrev State.safe (s : State) : Prop := s.fault = none

/-- A step that goes on without a fault. -/
abbrev SafeStep (s t : State) : Prop := step s = .next t ∧ t.safe

/-- No agent step falls into a gap: the accesses of the coming commands follow each other directly (20 R85). -/
abbrev State.quiet (s : State) : Prop := s.gaps = []

/-- A mailbox in order: a pending mailbox has been written as 40 R139 asks, and an abort is requested of a pending
mailbox only (40 R135, 43 R190). -/
abbrev Mailbox.inv (x : Mailbox) : Prop :=
  (x.txrq = true → x.wroteTi = true ∧ x.wroteTdt = true ∧ (0 < nbytes x.dlc → x.wroteTdl = true)
    ∧ (4 < nbytes x.dlc → x.wroteTdh = true))
  ∧ (x.abrq = true → x.txrq = true)

/-- A FIFO in order: at most three entries, bit 0 of each identifier word 0 (10 R41), and a release pending only where
there is a head (44 R233). -/
abbrev Fifo.inv (x : Fifo) : Prop :=
  x.q.length ≤ 3 ∧ (∀ e ∈ x.q, e.rir.getLsbD 0 = false) ∧ (x.rfom = true → x.q ≠ [])

/-- An instance in order: the bits no register field holds are 0 (10 R23, R31, R32, R33), INAK and SLAK are the
acknowledgement of a mode (60 R290, R296), the mailboxes and FIFOs are in order, and the request order lists each pending
mailbox once (10 R43). -/
abbrev Ctrl.inv (p : Params) (r : Ctrl) : Prop :=
  r.mcr &&& ~~~mcrMask = 0 ∧ r.ier &&& ~~~ierMask = 0 ∧ r.esr &&& ~~~esrMask = 0 ∧ r.btr &&& ~~~btrMask p = 0
  ∧ ¬(r.msr.inak = true ∧ r.msr.slak = true)
  ∧ (∀ m, (r.mb m).inv) ∧ (∀ f, (r.fifo f).inv)
  ∧ r.reqOrder.Nodup ∧ ∀ m, m ∈ r.reqOrder ↔ (r.mb m).txrq = true

/-- The filter registers in order: the bits no field holds are 0 (10 R40). -/
abbrev Filters.inv (x : Filters) : Prop :=
  x.fmr &&& ~~~fmrMask = 0 ∧ x.fm1r &&& ~~~bankMask = 0 ∧ x.fs1r &&& ~~~bankMask = 0 ∧ x.ffa1r &&& ~~~bankMask = 0
  ∧ x.fa1r &&& ~~~bankMask = 0

/-- The invariant of the machine. -/
abbrev State.inv (s : State) : Prop :=
  s.primary.inv s.params ∧ s.secondary.inv s.params ∧ s.filters.inv

end Sys2Proof.Machine
end

