-- ==== Sys2Proof/Certificates/Slice0/Obligations.lean ====
section
/-! DEFINITION. The statements for the provers, each with the rule of spec/ it formalises. Sys2Proof.Spec holds the
words the statements share; a statement's next state is written out wherever the rule fixes it. `raise F(info)` of a rule
(60 R280) is read in the model's form: a next state in which that fault is recorded and there is no result (log 5). -/

namespace Sys2Proof.Spec

open Sys2Proof.Machine

/-- The widths of the operand slots a command reads, in slot order (30 R113 and each command's rule). -/
def slotWidths : Instr → List Nat
  | .regRd _ => [32]
  | .regWr _ => [32, 32]
  | .regRmw _ => [32, 32, 32]
  | .btSynth => [32, 32, 8]
  | .btFreq => [32, 32, 32, 32, 32]
  | .btApply _ => [32, 32, 32, 32]
  | .btRead _ | .btClear _ => []
  | .fwL32 => [32, 32]
  | .fwL16 => [32, 32, 32, 32]
  | .fwM32 => [32, 32]
  | .fwM16 => [32, 32, 32, 32]
  | .fwEnc16 => [32]
  | .fwDec16 => [16]
  | .idEnc | .idDec => [32]
  | .idCmp => [32, 32]
  | .idCmpm => [32, 32, 32]
  | .idCmps => [32, 32]
  | .idCmpsm => [32, 32, 32]
  | .idMkstd => [11, 1]
  | .idMkext => [29, 1]
  | .idFields => [32]
  | .txSelect _ => []
  | .txSend _ => [32, 64, 8]
  | .txReadback _ _ | .txStatus _ _ | .rxRead _ _ _ | .rxRelease _ _ | .rxCount _ _ => []
  | .irqPend _ | .irqClr _ => [32]

/-- Every operand slot the command reads fits its width (30 R113). -/
abbrev OperandsFit (i : Instr) (s : State) : Prop :=
  ∀ k, ∀ h : k < (slotWidths i).length, s.ops.slot (k + 1) < 2 ^ (slotWidths i)[k]

/-- A command can start: no fault is recorded and its operands fit. -/
abbrev Ready (i : Instr) (s : State) : Prop := s.fault = none ∧ OperandsFit i s

/-- The command answers t, however many draw numbers it takes: the draw counter is the model's own (log 1), so no
statement says what it becomes. -/
abbrev Answers (i : Instr) (s t : State) : Prop := ∃ n : Nat, exec i s = .next { t with draws := n }

/-- An instance with every register and hidden state at its stated reset value (70 R312): the registers R312 gives no
value are unwritten, whatever they hold. The interrupt lines are then deasserted. -/
def IsReset (r : Ctrl) : Prop :=
  r.mcr = 0x00010002
    ∧ r.msr.inak = false ∧ r.msr.slak = true ∧ r.msr.erri = false ∧ r.msr.wkui = false ∧ r.msr.slaki = false
    ∧ r.ier = 0 ∧ r.esr = 0 ∧ r.btr = 0x01230000 ∧ r.reqOrder = []
    ∧ (∀ f, (r.fifo f).q = [] ∧ (r.fifo f).full = false ∧ (r.fifo f).fovr = false ∧ (r.fifo f).rfom = false)
    ∧ (∀ m, let x := r.mb m
        x.txrq = false ∧ x.empty = true ∧ x.time = none ∧ x.wroteTi = false ∧ x.wroteTdt = false ∧ x.wroteTdl = false
        ∧ x.wroteTdh = false ∧ x.rqcp = false ∧ x.txok = false ∧ x.alst = false ∧ x.terr = false ∧ x.abrq = false
        ∧ r.low m = false)
    ∧ (∀ p d, p.codePolicy = .lowestIndex → r.code p d = 0)
    ∧ r.irqTx = false ∧ r.irqRx0 = false ∧ r.irqRx1 = false ∧ r.irqSce = false

/-- The filter registers at their stated reset values (70 R312). -/
def FiltersReset (x : Filters) : Prop :=
  x.fmr = 0x00000E01 ∧ x.fm1r = 0 ∧ x.fs1r = 0 ∧ x.ffa1r = 0 ∧ x.fa1r = 0
    ∧ ∀ n, (x.bank n).wrote1 = false ∧ (x.bank n).wrote2 = false

/-- Operand slot k as a 32-bit word. -/
abbrev word (s : State) (k : Nat) : Word := BitVec.ofNat 32 (s.ops.slot k)

/-- The block is unchanged: both instances and the filter registers; and so are the parameters, the operands, the
agenda, the schedule of the gaps. -/
abbrev SameBlock (s t : State) : Prop :=
  t.primary = s.primary ∧ t.secondary = s.secondary ∧ t.filters = s.filters ∧ t.params = s.params ∧ t.ops = s.ops
    ∧ t.agenda = s.agenda ∧ t.gaps = s.gaps

/-- An offset is mapped in instance c's window, by the table of 20 R81. -/
abbrev Mapped (c : Ctl) (off : Nat) : Prop :=
  off % 4 = 0 ∧ (off ≤ 0x01F ∨ (0x180 ≤ off ∧ off ≤ 0x1CF)
    ∨ (c = .primary ∧ (off ∈ [0x200, 0x204, 0x20C, 0x214, 0x21C] ∨ (0x240 ≤ off ∧ off ≤ 0x31F))))

/-- The registers an instance has (10 R22, R40). -/
abbrev Has (c : Ctl) (r : Reg) : Prop := r.isFilter = true → c = .primary

/-- A register whose content is specified: a mailbox or filter content register once it is written (10 R44), every
other one always. -/
def Specified (s : State) (c : Ctl) : Reg → Prop
  | .ti m => (s.mb c m).wroteTi = true
  | .tdt m => (s.mb c m).wroteTdt = true
  | .tdl m => (s.mb c m).wroteTdl = true
  | .tdh m => (s.mb c m).wroteTdh = true
  | .fr1 n => (s.filters.bank n).wrote1 = true
  | .fr2 n => (s.filters.bank n).wrote2 = true
  | _ => True

/-- Pending mailbox a is sent before pending mailbox b (43 R205): by request order under TXFP, else by identifier and
then mailbox number. -/
abbrev SentBefore (r : Ctrl) (a b : Fin 3) : Prop :=
  if r.mcr.getLsbD 2 then r.reqOrder.idxOf a < r.reqOrder.idxOf b
  else (r.mb a).ident.toNat < (r.mb b).ident.toNat ∨ ((r.mb a).ident = (r.mb b).ident ∧ a < b)

/-- The 16-bit compact word of a MOBID's STD, RTR and IDE and three extension bits, in both layouts (30 R105). -/
def compactWord (l : Filt16Layout) (m : Word) (ext : BitVec 3) : BitVec 16 :=
  match l with
  | .bxCan => m.extractLsb' 21 11 ++ m.extractLsb' 1 1 ++ m.extractLsb' 2 1 ++ ext
  | .sourceOrder => m.extractLsb' 21 11 ++ ext ++ m.extractLsb' 2 1 ++ m.extractLsb' 1 1

/-- The compact word of an identifier: EXT[17:15], or 000 for a standard MOBID (30 R105). -/
def compactId (l : Filt16Layout) (m : Word) : BitVec 16 :=
  compactWord l m (if m.getLsbD 2 then m.extractLsb' 18 3 else 0)

/-- The compact word of a mask, which is a bit pattern and not canonicalised: EXT[17:15] whatever its IDE bit, all bits
inverted under FILTER_MASK_INVERT (42_filter_words.md, maskw16). -/
def compactMask (p : Params) (k : Word) : BitVec 16 :=
  let h := compactWord p.filt16 k (k.extractLsb' 18 3)
  if p.filterMaskInvert then h ^^^ 0xFFFF else h

/-- FIFO f shows an entry: it has a head and no release is pending (40 R144). -/
abbrev Shows (x : Fifo) (e : Entry) : Prop := x.rfom = false ∧ x.q.head? = some e

/-- What a read value v of register r says of the state (40 R143, R144; 10 R23 to R40): its defined bits. Of the other
bits it says nothing. -/
def ReadsAs (s : State) (c : Ctl) (v : Word) : Reg → Prop
  | .mcr => v &&& 0x000180FF = (s.ctl c).mcr &&& 0x000100FF
  | .msr => v.getLsbD 0 = (s.ctl c).msr.inak ∧ v.getLsbD 1 = (s.ctl c).msr.slak ∧ v.getLsbD 2 = (s.ctl c).msr.erri
      ∧ v.getLsbD 3 = (s.ctl c).msr.wkui ∧ v.getLsbD 4 = (s.ctl c).msr.slaki
  | .tsr => (∀ m : Fin 3, v.getLsbD (8 * m.val) = (s.mb c m).rqcp ∧ v.getLsbD (8 * m.val + 1) = (s.mb c m).txok
      ∧ v.getLsbD (8 * m.val + 2) = (s.mb c m).alst ∧ v.getLsbD (8 * m.val + 3) = (s.mb c m).terr
      ∧ v.getLsbD (8 * m.val + 7) = (s.mb c m).abrq ∧ v.getLsbD (26 + m.val) = !(s.mb c m).txrq
      ∧ v.getLsbD (29 + m.val) = (decide (2 ≤ (s.ctl c).pending.length) && m == (s.ctl c).lowestPriority))
      ∧ ((∃ m : Fin 3, (s.mb c m).txrq = false) →
          ∃ m : Fin 3, (s.mb c m).txrq = false ∧ (v.extractLsb' 24 2).toNat = m.val
            ∧ (s.params.codePolicy = .lowestIndex → ∀ q < m, (s.mb c q).txrq = true))
      ∧ ((∀ m : Fin 3, (s.mb c m).txrq = true) → (v.extractLsb' 24 2).toNat = (s.ctl c).lowestPriority.val)
  | .rfr f => (v.extractLsb' 0 2).toNat = (s.fifo c f).q.length % 4 ∧ v.getLsbD 3 = (s.fifo c f).full
      ∧ v.getLsbD 4 = (s.fifo c f).fovr ∧ v.getLsbD 5 = (s.fifo c f).rfom
  | .ier => v &&& 0x00038F7F = (s.ctl c).ier &&& 0x00038F7F
  | .esr => v &&& 0xFFFF0077 = (s.ctl c).esr &&& 0xFFFF0077
  | .btr => v &&& btrMask s.params = (s.ctl c).btr &&& btrMask s.params
  | .ti m => v.extractLsb' 1 31 = (s.mb c m).ident ∧ v.getLsbD 0 = (s.mb c m).txrq
  | .tdt m => v.extractLsb' 0 4 = (s.mb c m).dlc ∧ v.getLsbD 8 = (s.mb c m).tgt
      ∧ ∀ x, (s.mb c m).time = some x → v.extractLsb' 16 16 = x
  | .tdl m => v = (s.mb c m).tdl
  | .tdh m => v = (s.mb c m).tdh
  | .ri f => ∀ e, Shows (s.fifo c f) e → v.extractLsb' 1 31 = e.rir.extractLsb' 1 31
  | .rdt f => ∀ e, Shows (s.fifo c f) e →
      v.extractLsb' 0 4 = e.dlc ∧ v.extractLsb' 8 8 = e.fmi ∧ v.extractLsb' 16 16 = e.time
  | .rdl f => ∀ e, Shows (s.fifo c f) e → v = e.data.extractLsb' 0 32
  | .rdh f => ∀ e, Shows (s.fifo c f) e → v = e.data.extractLsb' 32 32
  | .fmr => v &&& 0x00003F01 = s.filters.fmr &&& 0x00003F01
  | .fm1r => v &&& 0x0FFFFFFF = s.filters.fm1r &&& 0x0FFFFFFF
  | .fs1r => v &&& 0x0FFFFFFF = s.filters.fs1r &&& 0x0FFFFFFF
  | .ffa1r => v &&& 0x0FFFFFFF = s.filters.ffa1r &&& 0x0FFFFFFF
  | .fa1r => v &&& 0x0FFFFFFF = s.filters.fa1r &&& 0x0FFFFFFF
  | .fr1 n => v = (s.filters.bank n).r1
  | .fr2 n => v = (s.filters.bank n).r2

/-- The k-th split of the BT.SYNTH search, on a path that only sp fixes (41 R151, R152). -/
def synthSplit (sp : Nat) : Nat → Nat × Nat
  | 0 => (14, 5)
  | k + 1 =>
    let p := synthSplit sp k
    if sp * (1 + p.1 + p.2) > 256 * (p.1 + 1) then (p.1, p.2 - 1) else (p.1 - 1, p.2)

/-- The search stops at split k, with a divisor of q0: no split up to k has a zero segment, and k is the first whose
quanta divide q0 (41 R151, R152). -/
abbrev SynthStops (q0 sp k : Nat) : Prop :=
  (∀ j ≤ k, (synthSplit sp j).1 ≠ 0 ∧ (synthSplit sp j).2 ≠ 0)
    ∧ q0 % (1 + (synthSplit sp k).1 + (synthSplit sp k).2) = 0
    ∧ ∀ j < k, q0 % (1 + (synthSplit sp j).1 + (synthSplit sp j).2) ≠ 0

/-- The pure commands: they touch no register (41, 42, 46). -/
def isPure : Instr → Bool
  | .btSynth | .btFreq | .fwL32 | .fwL16 | .fwM32 | .fwM16 | .fwEnc16 | .fwDec16 => true
  | .idEnc | .idDec | .idCmp | .idCmpm | .idCmps | .idCmpsm | .idMkstd | .idMkext | .idFields => true
  | _ => false

/-- The commands that only read registers (20 R86): no write is among their accesses. -/
def onlyReads : Instr → Bool
  | .regRd _ | .btRead _ | .txSelect _ | .txReadback _ _ | .txStatus _ _ | .rxCount _ _ | .irqPend _ => true
  | .rxRead _ _ rel => !rel
  | _ => false

/-- The commands that may write a filter register: only the raw writes of instance 0 (40 R142). -/
def mayWriteFilters : Instr → Bool
  | .regWr c | .regRmw c => c == .primary
  | _ => false

/-- Condition b of the interrupt table, on the flags of instance c (45 R240). -/
def irqHolds (s : State) (c : Ctl) (b : Nat) : Prop :=
  match b with
  | 0 => ∃ m, (s.mb c m).rqcp = true
  | 1 => (s.fifo c 0).q ≠ []
  | 2 => (s.fifo c 0).full = true
  | 3 => (s.fifo c 0).fovr = true
  | 4 => (s.fifo c 1).q ≠ []
  | 5 => (s.fifo c 1).full = true
  | 6 => (s.fifo c 1).fovr = true
  | 8 => (s.ctl c).esr.getLsbD 0 = true
  | 9 => (s.ctl c).esr.getLsbD 1 = true
  | 10 => (s.ctl c).esr.getLsbD 2 = true
  | 11 => (s.ctl c).esr.extractLsb' 4 3 ≠ 0
  | 15 => (s.ctl c).msr.erri = true
  | 16 => (s.ctl c).msr.wkui = true
  | 17 => (s.ctl c).msr.slaki = true
  | _ => False

/-- The mask asks for no bit outside IRQMASK (45 R240). -/
abbrev MaskOk (s : State) : Prop := s.ops.x1 < 2 ^ 32 ∧ word s 1 &&& ~~~(0x00038F7F : Word) = 0

/-- A mailbox whose RQCP is cleared: TXOK, ALST and TERR go with it (40 R135). -/
def withoutCompletion (x : Mailbox) : Mailbox := { x with rqcp := false, txok := false, alst := false, terr := false }

/-- A mailbox after IRQ.CLR asked for TMEIE: RQCP clears with the flags that go with it (45 R242, 40 R135). -/
def irqClearedMailbox (x : Mailbox) (ask : Bool) : Mailbox := if ask && x.rqcp then withoutCompletion x else x

/-- The rows of the interrupt table by the register they stand in, in the order the commands visit these: TSR, RF0R, RF1R,
ESR, MSR (45_interrupt_status.md, groups). -/
def irqGroups : List (List Nat) := [[0], [1, 2, 3], [4, 5, 6], [8, 9, 10, 11], [15, 16, 17]]

/-- The groups a mask visits: those it asks a row of (45_interrupt_status.md, groups). -/
def irqGroupsOf (k : Word) : List (List Nat) := irqGroups.filter fun g => g.any fun b => k.getLsbD b

/-- v is u without the flags asked for that were set in r: r is the instance at IRQ.CLR's read, u at its write. A flag set
after the read stays, and so does everything that is no such flag (45 R242, R243; 20 R91). -/
def SeenCleared (ask : Nat → Bool) (r u v : Ctrl) : Prop :=
  (∀ m, v.mb m = if ask 0 && (r.mb m).rqcp then withoutCompletion (u.mb m) else u.mb m)
    ∧ v.fifo 0 = { u.fifo 0 with
        full := (u.fifo 0).full && !(ask 2 && (r.fifo 0).full)
        fovr := (u.fifo 0).fovr && !(ask 3 && (r.fifo 0).fovr) }
    ∧ v.fifo 1 = { u.fifo 1 with
        full := (u.fifo 1).full && !(ask 5 && (r.fifo 1).full)
        fovr := (u.fifo 1).fovr && !(ask 6 && (r.fifo 1).fovr) }
    ∧ v = { u with
        mbs := v.mbs
        fifos := v.fifos
        msr := { u.msr with
          erri := u.msr.erri && !(ask 15 && r.msr.erri)
          wkui := u.msr.wkui && !(ask 16 && r.msr.wkui)
          slaki := u.msr.slaki && !(ask 17 && r.msr.slaki) } }

/-- IRQ.PEND's visit of a register in state s: one read. -/
def PendVisit (_ask : Nat → Bool) (s t : State) : Prop := t = s.advance 2

/-- IRQ.CLR's visit of a register in state s: one read; where it showed a flag asked for that IRQ.CLR clears, a write after
the gap that clears just these, else no write (45 R242). -/
def ClearVisit (c : Ctl) (ask : Nat → Bool) (s t : State) : Prop :=
  let u := runGap (s.advance 2)
  let shown := ∃ b ∈ [0, 2, 3, 5, 6, 15, 16, 17], ask b = true ∧ irqHolds s c b
  (shown → SeenCleared ask (s.ctl c) (u.ctl c) (t.ctl c) ∧ t = u.setCtl c (t.ctl c)) ∧ (¬ shown → t = s.advance 2)

/-- The visits of an interrupt command from s to t, with a gap between one register and the next: p has the rows asked for
whose condition held when their register was read (45 R241, R242; 20 R85). -/
def IrqVisits (visit : (Nat → Bool) → State → State → Prop) (c : Ctl) (k : Word) :
    List (List Nat) → State → State → Word → Prop
  | [], s, t, p => t = s ∧ p = 0
  | g :: gs, s, t, p => ∃ (u : State) (q : Word),
      visit (fun b => g.contains b && k.getLsbD b) s u
      ∧ IrqVisits visit c k gs (if gs = [] then u else runGap u) t q
      ∧ ∀ b < 32, p.getLsbD b = true ↔ (b ∈ g ∧ k.getLsbD b = true ∧ irqHolds s c b) ∨ q.getLsbD b = true

end Sys2Proof.Spec

open Sys2Proof Sys2Proof.Machine Sys2Proof.Spec

/-! ### Encoding, decoding, stepping -/

/-- 30 R109, R111, R112: decoding the command word of any legal command gives the command back, every field at every
value. -/
def Obligations.DecodeEncodeAgree : Prop := ∀ i : Instr, i.wf = true → decode (encode i) = .ok i

/-- 30 R109, R111, R112: a word decodes to a command exactly where the command is legal and the word has its OPC in bits
7:0, its INST in bit 8, its IDX in bits 10:9, its REL in bit 11 (each 0 where the command has no such field) and 0 in
bits 31:12: no bit is ignored. -/
def Obligations.DecodeReadsFields : Prop :=
  ∀ (w : Word) (i : Instr), decode w = .ok i ↔
    i.wf = true ∧ w.extractLsb' 0 8 = i.opcode ∧ w.getLsbD 8 = i.instField.bit ∧ w.extractLsb' 9 2 = i.idxField
      ∧ w.getLsbD 11 = i.relField ∧ w.extractLsb' 12 20 = 0

/-- 30 R109, R112: words written out from the encoding decode to the commands they stand for (95 V168, V169). Program P2
of 95_test_vectors.md gives 0x141 and 0x161 as words of instance 0; by R109 bit 8 makes them instance 1's (log 19). -/
def Obligations.SpecWordsDecode : Prop :=
  decode 0x00000A50 = .ok (.rxRead .primary 1 true) ∧ decode 0x00000343 = .ok (.txStatus .secondary 1)
    ∧ decode 0x00000141 = .ok (.txSend .secondary) ∧ decode 0x00000041 = .ok (.txSend .primary)
    ∧ decode 0x00000003 = .ok (.regRmw .primary) ∧ decode 0x00000010 = .ok .btSynth
    ∧ decode 0x00000020 = .ok .fwL32 ∧ decode 0x00000031 = .ok .idDec
    ∧ decode 0x00000161 = .ok (.irqClr .secondary)

/-- 30 R111, R115: a word that is no legal command's faults with F_ILLEGAL_COMMAND, before any access. -/
def Obligations.IllegalWordsFault : Prop :=
  ∀ (s : State) (w : Word) (x : Operands) (rest : List Event), s.fault = none → s.agenda = .command w x :: rest →
    (∀ i : Instr, i.wf = true → encode i ≠ w) →
    ∃ t, step s = .next t ∧ t.fault = some (.illegalCommand w) ∧ t.res = Results.absent ∧ t.primary = s.primary
      ∧ t.secondary = s.secondary ∧ t.filters = s.filters ∧ t.params = s.params

/-- 30 R110, R111: the command at the head of the agenda runs, as exec of the command its word decodes to, with its
operand record and no result yet. -/
def Obligations.StepRunsDecodedCommand : Prop :=
  ∀ (s : State) (w : Word) (x : Operands) (rest : List Event) (i : Instr), s.fault = none →
    s.agenda = .command w x :: rest → decode w = .ok i →
    step s = exec i { s with agenda := rest, ops := x, res := Results.absent }

/-- 00 R5, 70 R313: the host's reset pulse and the agents' steps happen when they are next; with nothing scheduled the
block waits. -/
def Obligations.StepRunsOtherEvents : Prop :=
  ∀ s : State, s.fault = none →
    (s.agenda = [] → step s = .next s)
    ∧ (∀ c rest, s.agenda = .reset c :: rest → step s = .next (hostReset c { s with agenda := rest }))
    ∧ ∀ a rest, s.agenda = .agent a :: rest → step s = .next (agentStep { s with agenda := rest } a)

/-- 60 R280: after a fault no step and no command goes on, and the fault stays the one recorded. -/
def Obligations.FaultStopsMachine : Prop :=
  ∀ (s : State) (f : Fault), s.fault = some f → step s = .fault f ∧ ∀ i : Instr, exec i s = .fault f

/-- Where no fault is recorded every command answers a next state, a command that raises a fault too: that is the model's
form of a raised fault (log 5) and no rule's. That the fault is recorded with no result is 60 R280 and 10 R45. -/
def Obligations.CommandsAlwaysAnswer : Prop :=
  ∀ (i : Instr) (s : State), s.fault = none →
    ∃ t, exec i s = .next t ∧ (t.fault ≠ none → t.res = Results.absent) ∧ t.params = s.params ∧ t.ops = s.ops
      ∧ t.agenda = s.agenda

/-- 30 R113, 60 R283: the first operand slot that does not fit its width faults with F_OPERAND_RANGE, before any
register access. -/
def Obligations.OperandRangeFaultsFirst : Prop :=
  ∀ (i : Instr) (s : State) (k : Nat) (h : k < (slotWidths i).length), i.wf = true → s.fault = none →
    (∀ j, ∀ hj : j < k, s.ops.slot (j + 1) < 2 ^ (slotWidths i)[j]) → ¬ s.ops.slot (k + 1) < 2 ^ (slotWidths i)[k] →
    exec i s = .next { s with fault := some (.operandRange (k + 1) (s.ops.slot (k + 1))), res := Results.absent }

/-! ### Invariant, reset -/

/-- The invariant of Safety.lean is kept by every step, from every state that meets it (10 R23, R31 to R33, R41 to
R44; 40 R135, R136, R139; 60 R290). -/
def Obligations.StepKeepsInvariant : Prop := ∀ s t : State, s.inv → step s = .next t → t.inv

/-- The invariant holds after power-on. -/
def Obligations.ResetMeetsInvariant : Prop := State.reset.inv

/-- 70 R312: what power-on leaves in every register with a stated value, in both instances; no fault, which a later
reset leaves as it is. -/
def Obligations.ResetValues : Prop :=
  (∀ c, IsReset (State.reset.ctl c)) ∧ FiltersReset State.reset.filters ∧ State.reset.fault = none
    ∧ ∀ (s : State) (c : Ctl), (hostReset c s).fault = s.fault

/-- 70 R310, R311, 40 R133: power-on and the reset pulse of instance c put the instance in reset, and reset the filter
registers where c is instance 0; a write of MCR.RESET = 1 that passes the Init-only check resets the instance but leaves
the filter registers. Both leave the other instance and the Fault record. -/
def Obligations.InstanceResets : Prop :=
  (∀ c, IsReset (State.reset.ctl c))
  ∧ ∀ (s : State) (c : Ctl), s.fault = none →
    (∀ rest, s.agenda = .reset c :: rest →
      ∃ t, step s = .next t ∧ IsReset (t.ctl c) ∧ (∀ d, d ≠ c → t.ctl d = s.ctl d)
        ∧ (c = .primary → FiltersReset t.filters) ∧ (c ≠ .primary → t.filters = s.filters) ∧ t.fault = none
        ∧ t.params = s.params ∧ t.agenda = rest)
    ∧ (Ready (.regWr c) s → s.ops.x1 = 0x000 → (word s 2).getLsbD 15 = true →
      ((s.ctl c).msr.inak = true ∨ word s 2 &&& 0x000100FC = (s.ctl c).mcr &&& 0x000100FC) →
      ∃ t, exec (.regWr c) s = .next t ∧ IsReset (t.ctl c) ∧ (∀ d, d ≠ c → t.ctl d = s.ctl d)
        ∧ t.filters = s.filters ∧ t.fault = none ∧ t.params = s.params ∧ t.res = Results.absent)

/-! ### Raw register access -/

/-- 40 R130, R143, R144, 20 R86: REG.RD answers a value whose defined bits are those of the register, and changes
nothing but the result and the draw numbers. -/
def Obligations.RegRdReadsRegister : Prop :=
  ∀ (s : State) (c : Ctl) (r : Reg), s.fault = none → Has c r → Specified s c r → s.ops.x1 = r.offset →
    ∃ v : Word, Answers (.regRd c) s { s with res := Results.one v.toNat } ∧ ReadsAs s c v r

/-- 40 R145, R130, R132: REG.RD and REG.RMW of a mailbox or filter content register that is unwritten since reset fault
with F_UNWRITTEN_READ at the read, and change nothing else. -/
def Obligations.RegRdUnwrittenFaults : Prop :=
  ∀ (s : State) (c : Ctl) (r : Reg), Has c r → ¬ Specified s c r → s.ops.x1 = r.offset →
    ∀ i ∈ [Instr.regRd c, .regRmw c], Ready i s → exec i s = .next { s with fault := some (.unwrittenRead c r.offset), res := Results.absent }

/-- 20 R81, R83: an offset that is unaligned or unmapped, filter offsets of instance 1 among them, faults with
F_BAD_OFFSET in every raw access, and changes nothing else; an offset the map lists does not; and an access of another
width than 4 faults with F_BAD_WIDTH. -/
def Obligations.UnmappedOffsetFaults : Prop :=
  ∀ (s : State) (c : Ctl),
    (∀ i ∈ [Instr.regRd c, .regWr c, .regRmw c], Ready i s → ¬ Mapped c s.ops.x1 →
      exec i s = .next { s with fault := some (.badOffset c s.ops.x1), res := Results.absent })
    ∧ (∀ i ∈ [Instr.regRd c, .regWr c], Ready i s → Mapped c s.ops.x1 →
      ∃ t, exec i s = .next t ∧ t.fault ≠ some (.badOffset c s.ops.x1))
    ∧ ∀ (off n : Nat) (v : Word), n ≠ 4 → memRead c off n s = .error (.badWidth c off n) s
      ∧ memWrite c off n v s = .error (.badWidth c off n) s

/-- 40 R133: MCR. The Init-only check, then INRQ, SLEEP, bits 7:2 and DBF; with RESET = 1 the instance is reset. -/
def Obligations.RegWrMcr : Prop :=
  ∀ (s : State) (c : Ctl), Ready (.regWr c) s → s.ops.x1 = 0x000 →
    (((s.ctl c).msr.inak = true ∨ word s 2 &&& 0x000100FC = (s.ctl c).mcr &&& 0x000100FC) →
      (word s 2).getLsbD 15 = false →
      exec (.regWr c) s = .next ((s.setCtl c { s.ctl c with mcr := word s 2 &&& 0x000100FF }).setRes Results.absent))
    ∧ (((s.ctl c).msr.inak = true ∨ word s 2 &&& 0x000100FC = (s.ctl c).mcr &&& 0x000100FC) →
      (word s 2).getLsbD 15 = true →
      ∃ r, IsReset r ∧ exec (.regWr c) s = .next ((s.setCtl c r).setRes Results.absent))
    ∧ ((s.ctl c).msr.inak = false → word s 2 &&& 0x000100FC ≠ (s.ctl c).mcr &&& 0x000100FC →
      exec (.regWr c) s = .next { s with fault := some (.notInit c 0x000), res := Results.absent })

/-- 40 R134, R137: MSR clears its flags where a 1 is written; IER stores its defined bits; ESR stores LEC. -/
def Obligations.RegWrMsrIerEsr : Prop :=
  ∀ (s : State) (c : Ctl), Ready (.regWr c) s →
    (s.ops.x1 = 0x004 → exec (.regWr c) s = .next ((s.setCtl c { s.ctl c with msr := { (s.ctl c).msr with
        erri := if (word s 2).getLsbD 2 then false else (s.ctl c).msr.erri
        wkui := if (word s 2).getLsbD 3 then false else (s.ctl c).msr.wkui
        slaki := if (word s 2).getLsbD 4 then false else (s.ctl c).msr.slaki } }).setRes Results.absent))
    ∧ (s.ops.x1 = 0x014 → exec (.regWr c) s =
        .next ((s.setCtl c { s.ctl c with ier := word s 2 &&& 0x00038F7F }).setRes Results.absent))
    ∧ (s.ops.x1 = 0x018 → exec (.regWr c) s = .next ((s.setCtl c { s.ctl c with
        esr := ((s.ctl c).esr &&& 0xFFFFFF8F) ||| (word s 2 &&& 0x00000070) }).setRes Results.absent))

/-- 40 R135: TSR. Each mailbox's flags clear where a 1 is written, RQCP's 1 clears all four, ABRQ is set only for a
pending mailbox; every other field of the mailbox, and everything else, is unchanged. -/
def Obligations.RegWrTsr : Prop :=
  ∀ (s : State) (c : Ctl), Ready (.regWr c) s → s.ops.x1 = 0x008 →
    ∃ t, exec (.regWr c) s = .next t ∧ t.fault = none ∧ t.res = Results.absent
      ∧ (∀ m : Fin 3, let v := word s 2; let b := 8 * m.val; let x := s.mb c m
          t.mb c m = { x with
            rqcp := if v.getLsbD b then false else x.rqcp
            txok := if v.getLsbD b || v.getLsbD (b + 1) then false else x.txok
            alst := if v.getLsbD b || v.getLsbD (b + 2) then false else x.alst
            terr := if v.getLsbD b || v.getLsbD (b + 3) then false else x.terr
            abrq := if v.getLsbD (b + 7) && x.txrq then true else x.abrq })
      ∧ t.ctl c = { s.ctl c with mbs := (t.ctl c).mbs }
      ∧ (∀ d, d ≠ c → t.ctl d = s.ctl d) ∧ t.filters = s.filters ∧ t.params = s.params

/-- 40 R136, R141: RFfR's FULL and FOVR clear where a 1 is written, and RFOM is set where a 1 is written and the FIFO
is not empty; a write to a FIFO output register has no effect. -/
def Obligations.RegWrFifo : Prop :=
  ∀ (s : State) (c : Ctl), Ready (.regWr c) s →
    (∀ f : Fin 2, s.ops.x1 = 0x00C + 4 * f.val →
      exec (.regWr c) s = .next ((s.setFifo c f { s.fifo c f with
        full := if (word s 2).getLsbD 3 then false else (s.fifo c f).full
        fovr := if (word s 2).getLsbD 4 then false else (s.fifo c f).fovr
        rfom := if (word s 2).getLsbD 5 && !(s.fifo c f).q.isEmpty then true else (s.fifo c f).rfom }).setRes
          Results.absent))
    ∧ (0x1B0 ≤ s.ops.x1 → s.ops.x1 ≤ 0x1CC → s.ops.x1 % 4 = 0 → exec (.regWr c) s = .next (s.setRes Results.absent))

/-- 40 R138: BTR; BTRMASK is 0xC37F_03FF for BRP_BITS = 10. -/
def Obligations.RegWrBtr : Prop :=
  ∀ (s : State) (c : Ctl), Ready (.regWr c) s → s.ops.x1 = 0x01C →
    (((s.ctl c).msr.inak = true ∨ word s 2 &&& btrMask s.params = (s.ctl c).btr &&& btrMask s.params) →
      exec (.regWr c) s = .next ((s.setCtl c { s.ctl c with btr := word s 2 &&& btrMask s.params }).setRes
        Results.absent))
    ∧ ((s.ctl c).msr.inak = false → word s 2 &&& btrMask s.params ≠ (s.ctl c).btr &&& btrMask s.params →
      exec (.regWr c) s = .next { s with fault := some (.notInit c 0x01C), res := Results.absent })
    ∧ (s.params.brpBits = 10 → btrMask s.params = 0xC37F03FF)

/-- 40 R139: TImR. A pending mailbox is busy. Else the identifier is stored, and TXRQ = 1 makes the mailbox pending,
at the end of the request order, with its completion flags cleared; unless a register the frame needs is unwritten, which
faults with the identifier stored. -/
def Obligations.RegWrTi : Prop :=
  ∀ (s : State) (c : Ctl) (m : Fin 3), Ready (.regWr c) s → s.ops.x1 = 0x180 + 0x10 * m.val →
    let x := s.mb c m
    let x' : Mailbox := { x with ident := (word s 2).extractLsb' 1 31, wroteTi := true }
    let needTdl := 0 < min x.dlc.toNat 8 ∧ x.wroteTdl = false
    let needTdh := 4 < min x.dlc.toNat 8 ∧ x.wroteTdh = false
    let faults := fun f : Fault =>
      exec (.regWr c) s = .next { (s.setMb c m x') with fault := some f, res := Results.absent }
    (x.txrq = true →
      exec (.regWr c) s = .next { s with fault := some (.mailboxBusy c m), res := Results.absent })
    ∧ (x.txrq = false → (word s 2).getLsbD 0 = false →
      exec (.regWr c) s = .next ((s.setMb c m x').setRes Results.absent))
    ∧ (x.txrq = false → (word s 2).getLsbD 0 = true →
      (x.wroteTdt = false → faults (.unwrittenRead c (0x184 + 0x10 * m.val)))
      ∧ (x.wroteTdt = true → needTdl → faults (.unwrittenRead c (0x188 + 0x10 * m.val)))
      ∧ (x.wroteTdt = true → ¬ needTdl → needTdh → faults (.unwrittenRead c (0x18C + 0x10 * m.val)))
      ∧ (x.wroteTdt = true → ¬ needTdl → ¬ needTdh →
        exec (.regWr c) s = .next ((s.setCtl c { (s.ctl c).setMb m
            { x' with txrq := true, rqcp := false, txok := false, alst := false, terr := false } with
          reqOrder := (s.ctl c).reqOrder ++ [m] }).setRes Results.absent)))

/-- 40 R140: TDTmR, TDLmR and TDHmR. -/
def Obligations.RegWrMailboxData : Prop :=
  ∀ (s : State) (c : Ctl) (m : Fin 3), Ready (.regWr c) s →
    let x := s.mb c m
    let v := word s 2
    (∀ off ∈ [0x184, 0x188, 0x18C], s.ops.x1 = off + 0x10 * m.val → x.txrq = true →
      exec (.regWr c) s = .next { s with fault := some (.mailboxBusy c m), res := Results.absent })
    ∧ (x.txrq = false →
      (s.ops.x1 = 0x184 + 0x10 * m.val → exec (.regWr c) s = .next ((s.setMb c m
        { x with dlc := v.extractLsb' 0 4, tgt := v.getLsbD 8, wroteTdt := true }).setRes Results.absent))
      ∧ (s.ops.x1 = 0x188 + 0x10 * m.val → exec (.regWr c) s = .next ((s.setMb c m
        { x with tdl := v, wroteTdl := true }).setRes Results.absent))
      ∧ (s.ops.x1 = 0x18C + 0x10 * m.val → exec (.regWr c) s = .next ((s.setMb c m
        { x with tdh := v, wroteTdh := true }).setRes Results.absent)))

/-- 40 R142: FMR and FA1R are written at any time; FM1R, FS1R and FFA1R in filter-init mode where no active bank
changes; FnR1 and FnR2 in filter-init mode where the bank is inactive; else F_FILTER_LOCKED with nothing written. On
instance 1 every filter offset faults with F_BAD_OFFSET. -/
def Obligations.RegWrFilters : Prop :=
  (∀ s : State, Ready (.regWr .secondary) s → 0x200 ≤ s.ops.x1 →
    exec (.regWr .secondary) s = .next { s with fault := some (.badOffset .secondary s.ops.x1), res := Results.absent })
  ∧ ∀ s : State, Ready (.regWr .primary) s →
    let v := word s 2
    let x := s.filters
    let stores := fun y : Filters => exec (.regWr .primary) s = .next { s with filters := y, res := Results.absent }
    let locked := exec (.regWr .primary) s =
      .next { s with fault := some (.filterLocked s.ops.x1), res := Results.absent }
    let frozen := fun old : Word => x.fmr.getLsbD 0 = false ∨ (v ^^^ old) &&& 0x0FFFFFFF &&& x.fa1r ≠ 0
    (s.ops.x1 = 0x200 → stores { x with fmr := v &&& 0x00003F01 })
    ∧ (s.ops.x1 = 0x21C → stores { x with fa1r := v &&& 0x0FFFFFFF })
    ∧ (s.ops.x1 = 0x204 → (frozen x.fm1r → locked) ∧ (¬ frozen x.fm1r → stores { x with fm1r := v &&& 0x0FFFFFFF }))
    ∧ (s.ops.x1 = 0x20C → (frozen x.fs1r → locked) ∧ (¬ frozen x.fs1r → stores { x with fs1r := v &&& 0x0FFFFFFF }))
    ∧ (s.ops.x1 = 0x214 → (frozen x.ffa1r → locked) ∧ (¬ frozen x.ffa1r → stores { x with ffa1r := v &&& 0x0FFFFFFF }))
    ∧ ∀ n : Fin 28,
      let shut := x.fmr.getLsbD 0 = false ∨ x.fa1r.getLsbD n.val = true
      (s.ops.x1 = 0x240 + 8 * n.val →
        (shut → locked) ∧ (¬ shut → stores (x.setBank n { x.bank n with r1 := v, wrote1 := true })))
      ∧ (s.ops.x1 = 0x244 + 8 * n.val →
        (shut → locked) ∧ (¬ shut → stores (x.setBank n { x.bank n with r2 := v, wrote2 := true })))

/-- 40 R132: REG.RMW is a read and then a write of (old & ~clr) | set. With no agent step between them it is REG.RD
followed by REG.WR of that value; its result is the value read. -/
def Obligations.RegRmwIsReadThenWrite : Prop :=
  ∀ (s t : State) (c : Ctl) (v : Nat), Ready (.regRmw c) s → s.quiet → exec (.regRd c) s = .next t →
    t.res.x1 = some v → t.fault = none →
    ∃ u, exec (.regWr c) { t with ops := { t.ops with
          x2 := ((BitVec.ofNat 32 v &&& ~~~(word s 2)) ||| word s 3).toNat } } = .next u
      ∧ exec (.regRmw c) s = .next { u with ops := s.ops, res := if u.fault = none then Results.one v else Results.absent }

/-- 40 R132, R137: whatever agent steps fall between its accesses, REG.RMW of IER leaves IER = (IER & ~clr) | set in
its defined bits, and answers without a fault the value read; nothing else changes but by those steps, so that with no
agent step between them everything else of the block is unchanged. -/
def Obligations.RegRmwIer : Prop :=
  ∀ (s : State) (c : Ctl), Ready (.regRmw c) s → s.ops.x1 = 0x014 →
    ∃ (t : State) (v : Word), exec (.regRmw c) s = .next t ∧ t.fault = none
      ∧ t.res = Results.one v.toNat ∧ v &&& 0x00038F7F = (s.ctl c).ier &&& 0x00038F7F
      ∧ (t.ctl c).ier = (((s.ctl c).ier &&& ~~~(word s 2)) ||| word s 3) &&& 0x00038F7F
      ∧ (t.ctl c).btr = (s.ctl c).btr ∧ t.filters = s.filters ∧ t.params = s.params
      ∧ (let u := runGap (s.advance 2)
        t.ctl c = { u.ctl c with ier := (t.ctl c).ier } ∧ ∀ d, d ≠ c → t.ctl d = u.ctl d)
      ∧ (s.quiet → t.ctl c = { s.ctl c with ier := (t.ctl c).ier } ∧ ∀ d, d ≠ c → t.ctl d = s.ctl d)

/-! ### Bit timing -/

/-- 41 R151, R152: BT.SYNTH answers the first split on sp's path whose quanta divide q0 = fref / fbus, with its
prescaler in 1..512 and sjw = min(ts2, 4); where there is none, or the prescaler is out of range, or fbus = 0, the zero
descriptor. It changes nothing but the result. -/
def Obligations.BtSynthSearch : Prop :=
  ∀ s : State, Ready .btSynth s →
    let q0 := s.ops.x1 / s.ops.x2
    let found := fun k : Nat => s.ops.x2 ≠ 0 ∧ SynthStops q0 s.ops.x3 k
      ∧ 1 ≤ q0 / (1 + (synthSplit s.ops.x3 k).1 + (synthSplit s.ops.x3 k).2)
      ∧ q0 / (1 + (synthSplit s.ops.x3 k).1 + (synthSplit s.ops.x3 k).2) ≤ 512
    (∀ k, found k →
      let p := synthSplit s.ops.x3 k
      exec .btSynth s = .next (s.setRes ⟨some 1, some (q0 / (1 + p.1 + p.2)), some p.1, some p.2, some (min p.2 4)⟩))
    ∧ ((¬ ∃ k, found k) → exec .btSynth s = .next (s.setRes ⟨some 0, some 0, some 0, some 0, some 0⟩))

/-- 41 R153: BT.FREQ is fref / ((1 + ts1 + ts2) · presc), rounded down, of any values; F_DIV_ZERO where presc = 0. -/
def Obligations.BtFreq : Prop :=
  ∀ s : State, Ready .btFreq s →
    (s.ops.x2 ≠ 0 → exec .btFreq s =
      .next (s.setRes ⟨some (s.ops.x1 / ((1 + s.ops.x3 + s.ops.x4) * s.ops.x2)), none, none, none, none⟩))
    ∧ (s.ops.x2 = 0 → exec .btFreq s = .next { s with fault := some (.divZero 0), res := Results.absent })

/-- 41 R154, R150: BT.APPLY checks the descriptor first; then, with INAK = 1 at its write, BTR's timing fields hold the
descriptor and SILM and LBKM stay, and nothing else changes but by the agent steps that fall between its read and its
write. -/
def Obligations.BtApplyWritesDescriptor : Prop :=
  ∀ (s : State) (c : Ctl), Ready (.btApply c) s → s.params.wf = true →
    let d := s.ops
    let legal := 1 ≤ d.x1 ∧ d.x1 ≤ 512 ∧ 1 ≤ d.x2 ∧ d.x2 ≤ 16 ∧ 1 ≤ d.x3 ∧ d.x3 ≤ 8 ∧ 1 ≤ d.x4 ∧ d.x4 ≤ 4
      ∧ d.x4 ≤ d.x3
    let u := runGap (s.advance 2)
    (¬ legal → exec (.btApply c) s =
      .next { s with fault := some (.descRange ⟨d.x1, d.x2, d.x3, d.x4⟩), res := Results.absent })
    ∧ (legal → (u.ctl c).msr.inak = true →
      ∃ t, exec (.btApply c) s = .next t ∧ t.fault = none ∧ t.res = Results.absent
        ∧ (t.ctl c).btr.getLsbD 31 = (s.ctl c).btr.getLsbD 31 ∧ (t.ctl c).btr.getLsbD 30 = (s.ctl c).btr.getLsbD 30
        ∧ ((t.ctl c).btr.extractLsb' 24 2).toNat = d.x4 - 1 ∧ ((t.ctl c).btr.extractLsb' 20 3).toNat = d.x3 - 1
        ∧ ((t.ctl c).btr.extractLsb' 16 4).toNat = d.x2 - 1 ∧ ((t.ctl c).btr.extractLsb' 0 16).toNat = d.x1 - 1
        ∧ (t.ctl c).ier = (s.ctl c).ier ∧ t.filters = s.filters
        ∧ t.ctl c = { u.ctl c with btr := (t.ctl c).btr } ∧ (∀ d, d ≠ c → t.ctl d = u.ctl d)
        ∧ (s.quiet → t.ctl c = { s.ctl c with btr := (t.ctl c).btr } ∧ ∀ d, d ≠ c → t.ctl d = s.ctl d))

/-- 41 R154, 40 R138: outside Init mode BT.APPLY of the descriptor BTR already holds changes no register; of another
one, with no agent step between, it faults with F_NOT_INIT. -/
def Obligations.BtApplyOutsideInit : Prop :=
  ∀ (s : State) (c : Ctl), Ready (.btApply c) s → s.params.wf = true → s.quiet → s.inv → (s.ctl c).msr.inak = false →
    let d : Desc := ⟨s.ops.x1, s.ops.x2, s.ops.x3, s.ops.x4⟩
    d.legal = true →
    (descOf s.params (s.ctl c).btr = d →
      Answers (.btApply c) s { s with res := Results.absent })
    ∧ (descOf s.params (s.ctl c).btr ≠ d →
      Answers (.btApply c) s { s with fault := some (.notInit c 0x01C), res := Results.absent })

/-- 41 R155, R156: BT.READ gives each timing field of BTR plus one, and changes nothing but the result. BT.CLEAR sets
BTR to 0, in Init mode or where BTR's fields are 0 already; else it faults with F_NOT_INIT. That BRP is at most 16 bits
wide, whatever BRP_BITS says, is the model's choice (log 2) and no rule's. -/
def Obligations.BtReadAndClear : Prop :=
  ∀ (s : State) (c : Ctl), s.fault = none →
    let b := (s.ctl c).btr
    Answers (.btRead c) s { s with res :=
      ⟨some ((b.toNat % 2 ^ min s.params.brpBits 16) + 1), some ((b.extractLsb' 16 4).toNat + 1),
        some ((b.extractLsb' 20 3).toNat + 1), some ((b.extractLsb' 24 2).toNat + 1), none⟩ }
    ∧ (((s.ctl c).msr.inak = true ∨ b &&& btrMask s.params = 0) →
      exec (.btClear c) s = .next ((s.setCtl c { s.ctl c with btr := 0 }).setRes Results.absent))
    ∧ ((s.ctl c).msr.inak = false → b &&& btrMask s.params ≠ 0 →
      exec (.btClear c) s = .next { s with fault := some (.notInit c 0x01C), res := Results.absent })

/-- 41 R157: a legal descriptor written with BT.APPLY is read back unchanged with BT.READ; BT.FREQ of a descriptor
BT.SYNTH found, with the same fref, gives fref / (fref / fbus), which is at least fbus, and fbus where fbus divides
fref. (The rule's converse holds of the exact quotient only: 17 / (17 / 2) = 2, log 18.) -/
def Obligations.TimingRoundTrips : Prop :=
  (∀ (s t : State) (c : Ctl), Ready (.btApply c) s → s.params.wf = true → exec (.btApply c) s = .next t →
    t.fault = none →
    ∃ u, exec (.btRead c) t = .next u ∧ u.fault = none
      ∧ u.res = ⟨some s.ops.x1, some s.ops.x2, some s.ops.x3, some s.ops.x4, none⟩)
  ∧ ∀ (s t : State) (presc ts1 ts2 sjw : Nat), Ready .btSynth s → exec .btSynth s = .next t →
    t.res = ⟨some 1, some presc, some ts1, some ts2, some sjw⟩ →
    let q0 := s.ops.x1 / s.ops.x2
    presc * (1 + ts1 + ts2) = q0
      ∧ ∃ u, exec .btFreq { t with ops := ⟨s.ops.x1, presc, ts1, ts2, sjw⟩ } = .next u ∧ u.fault = none
        ∧ u.res.x1 = some (s.ops.x1 / q0) ∧ s.ops.x2 ≤ s.ops.x1 / q0 ∧ (s.ops.x2 ∣ s.ops.x1 → s.ops.x1 / q0 = s.ops.x2)

/-! ### Filter words and the address codec -/

/-- 42 R170, R171, 30 R105: FW.ENC16 and FW.DEC16, bit by bit, in both layouts. -/
def Obligations.FwCompactForms : Prop :=
  (∀ s : State, Ready .fwEnc16 s →
    let m := word s 1
    exec .fwEnc16 s = .next (s.setRes ⟨some (compactId s.params.filt16 m).toNat, none, none, none, none⟩))
  ∧ ∀ s : State, Ready .fwDec16 s →
    let h : BitVec 16 := BitVec.ofNat 16 s.ops.x1
    let bx := s.params.filt16 = .bxCan
    let ide := if bx then h.getLsbD 3 else h.getLsbD 1
    let rtr := if bx then h.getLsbD 4 else h.getLsbD 0
    let ext := if ide then (if bx then h.extractLsb' 0 3 else h.extractLsb' 2 3) else 0
    let m : Word := h.extractLsb' 5 11 ++ ext ++ (0 : BitVec 15) ++ BitVec.ofBool ide ++ BitVec.ofBool rtr
      ++ (0 : BitVec 1)
    exec .fwDec16 s = .next (s.setRes ⟨some m.toNat, none, none, none, none⟩)

/-- 42 R172 to R175, 30 R105: the filter words, bit by bit in both layouts. An identifier of the 16-bit forms carries
EXT[17:15] only where it is extended, a mask always; a mask is inverted under FILTER_MASK_INVERT. -/
def Obligations.FwWords : Prop :=
  ∀ s : State,
    let enc := compactId s.params.filt16
    let mask := compactMask s.params
    let mask32 := fun k : Word => if s.params.filterMaskInvert then k ^^^ 0xFFFFFFFF else k
    (Ready .fwL32 s → exec .fwL32 s = .next (s.setRes ⟨some (word s 1 &&& 0xFFFFFFFE).toNat,
      some (word s 2 &&& 0xFFFFFFFE).toNat, none, none, none⟩))
    ∧ (Ready .fwM32 s → exec .fwM32 s = .next (s.setRes ⟨some (word s 1 &&& 0xFFFFFFFE).toNat,
      some (mask32 (word s 2) &&& 0xFFFFFFFE).toNat, none, none, none⟩))
    ∧ (Ready .fwL16 s → exec .fwL16 s = .next (s.setRes
      ⟨some ((enc (word s 2)).toNat * 2 ^ 16 + (enc (word s 1)).toNat),
        some ((enc (word s 4)).toNat * 2 ^ 16 + (enc (word s 3)).toNat), none, none, none⟩))
    ∧ (Ready .fwM16 s → exec .fwM16 s = .next (s.setRes
      ⟨some ((mask (word s 2)).toNat * 2 ^ 16 + (enc (word s 1)).toNat),
        some ((mask (word s 4)).toNat * 2 ^ 16 + (enc (word s 3)).toNat), none, none, none⟩))

/-- 42 R177: FW.DEC16 of FW.ENC16 keeps STD, IDE, RTR and EXT[17:15] and loses EXT[14:0]; ID.DEC of a 32-bit list word
gives the canonical MOBID. -/
def Obligations.FilterRoundTrip : Prop :=
  (∀ s t : State, ∀ h : Nat, Ready .fwEnc16 s → exec .fwEnc16 s = .next t → t.res.x1 = some h →
    exec .fwDec16 { t with ops := { t.ops with x1 := h } } =
      .next { t with
        ops := { t.ops with x1 := h }
        res := ⟨some (canon (word s 1) &&& ~~~(0x0003FFF8 : Word)).toNat, none, none, none, none⟩ })
  ∧ ∀ s t : State, ∀ w : Nat, Ready .fwL32 s → exec .fwL32 s = .next t → t.res.x1 = some w →
    exec .idDec { t with ops := { t.ops with x1 := w } } =
      .next { t with ops := { t.ops with x1 := w }, res := ⟨some (canon (word s 1)).toNat, none, none, none, none⟩ }

/-- 46 R255, R256, 30 R103: ID.ENC and ID.DEC give the canonical MOBID: STD and RTR kept, bit 0 cleared, IDE and EXT
kept where IDE is set and cleared where it is not. -/
def Obligations.IdEncDec : Prop :=
  ∀ s : State, ∀ i ∈ [Instr.idEnc, .idDec], Ready i s →
    let m := word s 1
    let ext : BitVec 18 := if m.getLsbD 2 then m.extractLsb' 3 18 else 0
    let w : Word := m.extractLsb' 21 11 ++ ext ++ m.extractLsb' 2 1 ++ m.extractLsb' 1 1 ++ (0 : BitVec 1)
    exec i s = .next (s.setRes ⟨some w.toNat, none, none, none, none⟩)

/-- 46 R258 to R261, R257: the four comparisons, field by field and bit by bit. RTR and STD always take part; EXT and IDE
only in ID.CMP and ID.CMPM with an extended second operand; a 1 in the mask makes its bit "don't care". -/
def Obligations.IdComparisons : Prop :=
  ∀ s : State,
    let a := word s 1
    let b := word s 2
    let std := a.extractLsb' 21 11 = b.extractLsb' 21 11 ∧ a.getLsbD 1 = b.getLsbD 1
    let full := std ∧ a.extractLsb' 3 18 = b.extractLsb' 3 18 ∧ a.getLsbD 2 = b.getLsbD 2
    let stdBit := fun j : Nat => j = 1 ∨ 21 ≤ j
    let takes := fun j : Nat => 1 ≤ j ∧ (b.getLsbD 2 = true ∨ stdBit j)
    let agree := fun part : Nat → Prop =>
      ∀ j < 32, part j → (word s 3).getLsbD j = false → a.getLsbD j = b.getLsbD j
    let answers := fun (i : Instr) (e : Prop) =>
      (e → exec i s = .next (s.setRes ⟨some 1, none, none, none, none⟩))
      ∧ (¬ e → exec i s = .next (s.setRes ⟨some 0, none, none, none, none⟩))
    (Ready .idCmp s → answers .idCmp (if b.getLsbD 2 then full else std))
    ∧ (Ready .idCmps s → answers .idCmps std)
    ∧ (Ready .idCmpm s → answers .idCmpm (agree takes))
    ∧ (Ready .idCmpsm s → answers .idCmpsm (agree stdBit))

/-- 46 R265: ID.CMP(a, b) = 1 and ID.CMP(b, a) = 0 exactly where a is extended, b is standard, and STD and RTR match;
and ID.CMP(a, b) = 1 implies ID.CMPS(a, b) = 1. -/
def Obligations.IdCompareAsymmetry : Prop :=
  ∀ (s : State), Ready .idCmp s →
    let swapped := { s with ops := { s.ops with x1 := s.ops.x2, x2 := s.ops.x1 } }
    ∃ t u v, exec .idCmp s = .next t ∧ exec .idCmp swapped = .next u ∧ exec .idCmps s = .next v
      ∧ (t.res.x1 = some 1 → v.res.x1 = some 1)
      ∧ ((t.res.x1 = some 1 ∧ u.res.x1 = some 0) ↔
        ((word s 1).getLsbD 2 = true ∧ (word s 2).getLsbD 2 = false
          ∧ (word s 1).extractLsb' 21 11 = (word s 2).extractLsb' 21 11
          ∧ (word s 1).getLsbD 1 = (word s 2).getLsbD 1))

/-- 46 R262, R263, R264: ID.MKSTD and ID.MKEXT place their operands, ID.FIELDS splits the canonical MOBID. -/
def Obligations.IdBuildAndSplit : Prop :=
  ∀ s : State,
    (Ready .idMkstd s → exec .idMkstd s =
      .next (s.setRes ⟨some (s.ops.x1 * 2 ^ 21 + s.ops.x2 * 2), none, none, none, none⟩))
    ∧ (Ready .idMkext s → exec .idMkext s =
      .next (s.setRes ⟨some (s.ops.x1 * 8 + 4 + s.ops.x2 * 2), none, none, none, none⟩))
    ∧ (Ready .idFields s →
      let m := s.ops.x1
      let rtr := m / 2 % 2
      ((word s 1).getLsbD 2 = true → exec .idFields s =
        .next (s.setRes ⟨some (m / 2 ^ 21), some (m / 8 % 2 ^ 18), some 1, some rtr, some (m / 8)⟩))
      ∧ ((word s 1).getLsbD 2 = false → exec .idFields s =
        .next (s.setRes ⟨some (m / 2 ^ 21), some 0, some 0, some rtr, some (m / 2 ^ 21)⟩)))

/-- 46 R265: ID.FIELDS gives back what ID.MKSTD and ID.MKEXT were given. -/
def Obligations.IdFieldsRoundTrip : Prop :=
  (∀ s t : State, ∀ m : Nat, Ready .idMkstd s → exec .idMkstd s = .next t → t.res.x1 = some m →
    ∃ u, exec .idFields { t with ops := { t.ops with x1 := m } } = .next u ∧ u.fault = none
      ∧ u.res = ⟨some s.ops.x1, some 0, some 0, some s.ops.x2, some s.ops.x1⟩)
  ∧ ∀ s t : State, ∀ m : Nat, Ready .idMkext s → exec .idMkext s = .next t → t.res.x1 = some m →
    ∃ u, exec .idFields { t with ops := { t.ops with x1 := m } } = .next u ∧ u.fault = none
      ∧ u.res = ⟨some (s.ops.x1 / 2 ^ 18), some (s.ops.x1 % 2 ^ 18), some 1, some s.ops.x2, some s.ops.x1⟩

/-! ### Transmit -/

/-- 43 R205: where the invariant holds and a mailbox is pending, lowest_priority_pending is pending and every other
pending mailbox is sent before it. -/
def Obligations.LowestPriorityIsLast : Prop :=
  ∀ (s : State) (c : Ctl), s.inv →
    let r := s.ctl c
    (∃ m, (s.mb c m).txrq = true) →
    (s.mb c r.lowestPriority).txrq = true
      ∧ ∀ q, (s.mb c q).txrq = true → q ≠ r.lowestPriority →
        SentBefore r q r.lowestPriority ∧ ¬ SentBefore r r.lowestPriority q

/-- 43 R191, R195, 10 R28: TX.SELECT names an empty mailbox, the lowest-numbered one under CODE_POLICY = LowestIndex, or
NO_MAILBOX where none is empty; TX.STATUS gives TMEm, RQCPm, TXOKm, ALSTm, TERRm. Neither changes anything but the
result. -/
def Obligations.TxSelectAndStatus : Prop :=
  ∀ (s : State) (c : Ctl), s.fault = none →
    ((∀ m, (s.mb c m).txrq = true) →
      Answers (.txSelect c) s { s with res := ⟨some 0xFF, none, none, none, none⟩ })
    ∧ ((∃ m, (s.mb c m).txrq = false) → ∃ m : Fin 3, (s.mb c m).txrq = false
      ∧ (s.params.codePolicy = .lowestIndex → ∀ q < m, (s.mb c q).txrq = true)
      ∧ Answers (.txSelect c) s { s with res := ⟨some m.val, none, none, none, none⟩ })
    ∧ ∀ m : Fin 3,
      let x := s.mb c m
      Answers (.txStatus c (BitVec.ofNat 2 m.val)) s { s with res :=
        ⟨some (!x.txrq).toNat, some x.rqcp.toNat, some x.txok.toNat, some x.alst.toNat, some x.terr.toNat⟩ }

/-- 43 R192, R193: where a mailbox is empty, and whatever agent steps fall between its accesses, TX.SEND completes: it
returns an empty mailbox, which is then pending, last in the request order, and holds the canonical identifier, the
length's low four bits, TGT = 0 and the payload bytes below nbytes(DLC); its completion flags are clear. -/
def Obligations.TxSendWritesFrame : Prop :=
  ∀ (s : State) (c : Ctl), Ready (.txSend c) s → (∃ m, (s.mb c m).txrq = false) →
    ∃ (t : State) (m : Fin 3), exec (.txSend c) s = .next t ∧ t.fault = none ∧ (s.mb c m).txrq = false
      ∧ t.res = ⟨some m.val, none, none, none, none⟩
      ∧ (s.params.codePolicy = .lowestIndex → ∀ q < m, (s.mb c q).txrq = true)
      ∧ (let x := t.mb c m
        x.txrq = true ∧ x.ident = (canon (word s 1)).extractLsb' 1 31 ∧ x.dlc = BitVec.ofNat 4 s.ops.x3
        ∧ x.tgt = false ∧ x.rqcp = false ∧ x.txok = false ∧ x.alst = false ∧ x.terr = false
        ∧ ∀ j < 8 * min (s.ops.x3 % 16) 8, (x.tdh ++ x.tdl : BitVec 64).getLsbD j = s.ops.x2.testBit j)
      ∧ (t.ctl c).reqOrder.getLast? = some m
      ∧ (∀ d, (t.ctl d).ier = (s.ctl d).ier ∧ (t.ctl d).btr = (s.ctl d).btr) ∧ t.filters = s.filters

/-- 43 R192, R193: TX.SEND writes no other mailbox: with no agent step between its accesses every other mailbox, the FIFOs,
the other registers of the instance, the other instance and the filter registers are unchanged, and the request order is
unchanged or gains the mailbox it returns at its end. -/
def Obligations.TxSendFrameOnly : Prop :=
  ∀ (s t : State) (c : Ctl), s.quiet → exec (.txSend c) s = .next t →
    ∃ m : Fin 3, (∀ q, q ≠ m → t.mb c q = s.mb c q)
      ∧ (t.ctl c).mcr = (s.ctl c).mcr ∧ (t.ctl c).msr = (s.ctl c).msr ∧ (t.ctl c).ier = (s.ctl c).ier
      ∧ (t.ctl c).esr = (s.ctl c).esr ∧ (t.ctl c).btr = (s.ctl c).btr ∧ (t.ctl c).fifos = (s.ctl c).fifos
      ∧ (∀ d, d ≠ c → t.ctl d = s.ctl d) ∧ t.filters = s.filters ∧ t.params = s.params
      ∧ ((s.mb c m).txrq = true → t.mb c m = s.mb c m)
      ∧ (t.ctl c).reqOrder = (s.ctl c).reqOrder ++ (if t.res.x1 = some m.val then [m] else [])
      ∧ (t.fault = none → ∀ k, t.res.x1 = some k → k = 0xFF ∨ k = m.val)

/-- 43 R196: where all three mailboxes are pending TX.SEND returns 0xFF and writes no register. -/
def Obligations.TxSendExhausted : Prop :=
  ∀ (s : State) (c : Ctl), Ready (.txSend c) s → (∀ m, (s.mb c m).txrq = true) →
    Answers (.txSend c) s { s with res := ⟨some 0xFF, none, none, none, none⟩ }

/-- 43 R194: with no agent step between its reads TX.READBACK gives the MOBID as stored, the payload, DLC, TGT and the
stamp of TIME, and changes nothing but the result; where registers are unwritten it faults at the first of them, in the
order TImR, TDTmR, TDLmR, TDHmR, with no result (40 R145, 60 R283). -/
def Obligations.TxReadback : Prop :=
  ∀ (s : State) (c : Ctl) (m : Fin 3), s.fault = none → s.quiet →
    let i := Instr.txReadback c (BitVec.ofNat 2 m.val)
    let x := s.mb c m
    let faultsAt := fun off : Nat =>
      Answers i s { s with fault := some (.unwrittenRead c (off + 0x10 * m.val)), res := Results.absent }
    (x.wroteTi = true → x.wroteTdt = true → x.wroteTdl = true → x.wroteTdh = true → ∃ n : Nat, Answers i s { s with res :=
        ⟨some (x.ident ++ (0 : BitVec 1)).toNat, some (x.tdh ++ x.tdl).toNat, some x.dlc.toNat, some x.tgt.toNat,
          some n⟩ }
      ∧ n < 2 ^ 16 ∧ ∀ y, x.time = some y → n = y.toNat)
    ∧ (x.wroteTi = false → faultsAt 0x180)
    ∧ (x.wroteTi = true → x.wroteTdt = false → faultsAt 0x184)
    ∧ (x.wroteTi = true → x.wroteTdt = true → x.wroteTdl = false → faultsAt 0x188)
    ∧ (x.wroteTi = true → x.wroteTdt = true → x.wroteTdl = true → x.wroteTdh = false → faultsAt 0x18C)

/-- 43 R197: after TX.SEND returned m with length 8, TX.READBACK of mailbox m gives the same MOBID and payload, whatever
agent steps fall before it and between its reads. -/
def Obligations.PayloadRoundTrip : Prop :=
  ∀ (s t : State) (c : Ctl) (m : Fin 3) (l : List AgentStep), Ready (.txSend c) s → s.ops.x3 = 8 →
    exec (.txSend c) s = .next t → t.res.x1 = some m.val →
    ∃ u, exec (.txReadback c (BitVec.ofNat 2 m.val)) (agentSteps t l) = .next u ∧ u.fault = none
      ∧ u.res.x1 = some (canon (word s 1)).toNat ∧ u.res.x2 = some s.ops.x2 ∧ u.res.x3 = some 8 ∧ u.res.x4 = some 0

/-! ### Receive -/

/-- 44 R222, R221, R225: where the FIFO has a head e and no release is pending, RX.READ gives e's fields, the MOBID
canonical, whatever agent steps fall between its accesses; it requests the release only if asked, after its reads. -/
def Obligations.RxReadHead : Prop :=
  ∀ (s : State) (c : Ctl) (f : Fin 2) (rel : Bool) (e : Entry), s.fault = none → Shows (s.fifo c f) e →
    ∃ t, exec (.rxRead c (BitVec.ofNat 2 f.val) rel) s = .next t ∧ t.fault = none
      ∧ t.res = ⟨some (canon e.rir).toNat, some e.data.toNat, some e.dlc.toNat, some e.fmi.toNat, some e.time.toNat⟩
      ∧ (t.fifo c f).rfom = rel ∧ (t.fifo c f).q.head? = some e

/-- 44 R222: with no agent step between its accesses RX.READ changes nothing but the result, and RFOM where the release
is asked and the FIFO is not empty; on an empty or releasing FIFO too, where the results are draws. -/
def Obligations.RxReadChangesRfomOnly : Prop :=
  ∀ (s : State) (c : Ctl) (f : Fin 2) (rel : Bool), s.fault = none → s.quiet →
    ∃ r : Results, Answers (.rxRead c (BitVec.ofNat 2 f.val) rel) s { (s.setFifo c f { s.fifo c f with
        rfom := (s.fifo c f).rfom || (rel && !(s.fifo c f).q.isEmpty) }) with res := r }
      ∧ r.x1 ≠ none ∧ r.x2 ≠ none ∧ r.x3 ≠ none ∧ r.x4 ≠ none ∧ r.x5 ≠ none

/-- 44 R223, R224: RX.RELEASE sets RFOM where the FIFO is not empty and changes nothing else; RX.COUNT gives FMP, FULL,
FOVR and RFOM and changes nothing but the result. -/
def Obligations.RxReleaseAndCount : Prop :=
  ∀ (s : State) (c : Ctl) (f : Fin 2), s.fault = none →
    let x := s.fifo c f
    exec (.rxRelease c (BitVec.ofNat 2 f.val)) s =
      .next ((s.setFifo c f { x with rfom := x.rfom || !x.q.isEmpty }).setRes Results.absent)
    ∧ Answers (.rxCount c (BitVec.ofNat 2 f.val)) s { s with res :=
      ⟨some (x.q.length % 4), some x.full.toNat, some x.fovr.toNat, some x.rfom.toNat, none⟩ }

/-! ### Interrupt status -/

/-- 45 R241, R240: with no agent step between its reads IRQ.PEND gives exactly the requested conditions that hold, and
whether there is one; it changes nothing but the result. A bit outside IRQMASK faults. -/
def Obligations.IrqPend : Prop :=
  ∀ (s : State) (c : Ctl), s.fault = none →
    (MaskOk s → s.quiet → s.inv → ∃ (t : State) (p : Word), exec (.irqPend c) s = .next t ∧ t.fault = none
      ∧ SameBlock s t ∧ t.res = ⟨some (p != 0).toNat, some p.toNat, none, none, none⟩
      ∧ ∀ b < 32, p.getLsbD b = true ↔ (word s 1).getLsbD b = true ∧ irqHolds s c b)
    ∧ (s.ops.x1 < 2 ^ 32 → ¬ MaskOk s →
      exec (.irqPend c) s = .next { s with fault := some (.operandRange 1 s.ops.x1), res := Results.absent })

/-- 45 R242, R240: with no agent step between its accesses IRQ.CLR gives the requested conditions that held, and clears
exactly the requested W1C flags among them; everything else is unchanged. A bit outside IRQMASK faults. -/
def Obligations.IrqClr : Prop :=
  ∀ (s : State) (c : Ctl), s.fault = none →
    let ask := fun b : Nat => (word s 1).getLsbD b
    (MaskOk s → s.quiet → s.inv → ∃ (t : State) (p : Word), exec (.irqClr c) s = .next t ∧ t.fault = none
      ∧ t.res = ⟨some p.toNat, none, none, none, none⟩
      ∧ (∀ b < 32, p.getLsbD b = true ↔ ask b = true ∧ irqHolds s c b)
      ∧ (∀ m, t.mb c m = irqClearedMailbox (s.mb c m) (ask 0))
      ∧ t.fifo c 0 = { s.fifo c 0 with full := (s.fifo c 0).full && !ask 2, fovr := (s.fifo c 0).fovr && !ask 3 }
      ∧ t.fifo c 1 = { s.fifo c 1 with full := (s.fifo c 1).full && !ask 5, fovr := (s.fifo c 1).fovr && !ask 6 }
      ∧ t.ctl c = { s.ctl c with
          mbs := (t.ctl c).mbs
          fifos := (t.ctl c).fifos
          msr := { (s.ctl c).msr with
            erri := (s.ctl c).msr.erri && !ask 15
            wkui := (s.ctl c).msr.wkui && !ask 16
            slaki := (s.ctl c).msr.slaki && !ask 17 } }
      ∧ (∀ d, d ≠ c → t.ctl d = s.ctl d) ∧ t.filters = s.filters ∧ t.params = s.params)
    ∧ (s.ops.x1 < 2 ^ 32 → ¬ MaskOk s →
      exec (.irqClr c) s = .next { s with fault := some (.operandRange 1 s.ops.x1), res := Results.absent })

/-- 60 R288, 45 R240: an instance asserts an interrupt line exactly where some condition enabled in IER holds, of those
that reach a line. -/
def Obligations.InterruptLines : Prop :=
  ∀ (s : State) (c : Ctl),
    let on := fun l : List Nat => ∃ b ∈ l, (s.ctl c).ier.getLsbD b = true ∧ irqHolds s c b
    ((s.ctl c).irqTx = true ↔ on [0]) ∧ ((s.ctl c).irqRx0 = true ↔ on [1, 2, 3])
      ∧ ((s.ctl c).irqRx1 = true ↔ on [4, 5, 6]) ∧ ((s.ctl c).irqSce = true ↔ on [15, 16, 17])

/-- 45 R241, R242, R243, 20 R85, R91: whatever agent steps fall between their accesses, IRQ.PEND and IRQ.CLR visit the
registers of the mask in order; each reports what held at its register's read, and IRQ.CLR clears just the flags it read
as set, so a flag an agent sets between the read and the write is neither cleared nor reported. -/
def Obligations.IrqInterleaved : Prop :=
  ∀ (s : State) (c : Ctl), s.fault = none → MaskOk s → s.inv →
    let k := word s 1
    (∃ (t : State) (p : Word), IrqVisits PendVisit c k (irqGroupsOf k) s t p
      ∧ exec (.irqPend c) s = .next (t.setRes ⟨some (p != 0).toNat, some p.toNat, none, none, none⟩))
    ∧ ∃ (t : State) (p : Word), IrqVisits (ClearVisit c) c k (irqGroupsOf k) s t p
      ∧ exec (.irqClr c) s = .next (t.setRes ⟨some p.toNat, none, none, none, none⟩)

/-! ### The agents -/

/-- 43 R206, R207, R210, R211, R212: what the steps of TXE do where they are enabled, and that they do nothing where
they are not, which is the model's choice for a listed step that is not enabled (log 4). Of their instance they touch the
one mailbox and, but for RETRY, the request order. -/
def Obligations.TxeSteps : Prop :=
  ∀ (s : State) (c : Ctl) (m : Fin 3) (o : TxOutcome),
    let r := s.ctl c
    let x := s.mb c m
    let normal := r.msr.inak = false ∧ r.msr.slak = false
    let allowed := s.params.txOrder = .assumed →
      ∀ q, (s.mb c q).txrq = true → q ≠ m → SentBefore r m q
    let nart := r.mcr.getLsbD 4 = true
    let stamped := fun y : Mailbox => y.time ≠ none
    (let go := x.txrq = true ∧ normal ∧ (o = .ok ∨ nart) ∧ allowed;
      (¬ go → agentStep s (.complete c m o) = s)
      ∧ (go → let t := agentStep s (.complete c m o);
        t.ctl c = { r with mbs := (t.ctl c).mbs, reqOrder := r.reqOrder.filter (· ≠ m) } ∧ stamped (t.mb c m)
        ∧ t.mb c m = { x with
            txrq := false
            rqcp := true
            txok := o == .ok
            alst := o == .alst
            terr := o == .terr
            abrq := false
            time := (t.mb c m).time
            tdh := (t.mb c m).tdh }
        ∧ ((t.mb c m).tdh.extractLsb' 0 16 = x.tdh.extractLsb' 0 16)
        ∧ (¬ (r.mcr.getLsbD 7 = true ∧ x.tgt = true ∧ x.dlc = 8) → (t.mb c m).tdh = x.tdh)
        ∧ ∀ q, q ≠ m → t.mb c q = s.mb c q))
    ∧ (let go := x.txrq = true ∧ normal ∧ ¬ nart ∧ o ≠ .ok ∧ allowed;
      (¬ go → agentStep s (.retry c m o) = s)
      ∧ (go → let t := agentStep s (.retry c m o);
        t.ctl c = { r with mbs := (t.ctl c).mbs } ∧ stamped (t.mb c m)
        ∧ t.mb c m = { x with txok := false, alst := o == .alst, terr := o == .terr, time := (t.mb c m).time }
        ∧ ∀ q, q ≠ m → t.mb c q = s.mb c q))
    ∧ (let go := x.abrq = true ∧ x.txrq = true;
      (¬ go → agentStep s (.abort c m) = s)
      ∧ (go → let t := agentStep s (.abort c m);
        t.ctl c = { r with mbs := (t.ctl c).mbs, reqOrder := r.reqOrder.filter (· ≠ m) }
        ∧ t.mb c m = { x with txrq := false, abrq := false, rqcp := true, txok := false }
        ∧ ∀ q, q ≠ m → t.mb c q = s.mb c q))

/-- 44 R231, R232, R233, R235: what the steps of RXE do: delivery, overrun under both policies, release; the head is
never replaced. Of their instance they touch the one FIFO only. That a listed step which is not enabled does nothing is the
model's choice (log 4). -/
def Obligations.RxeSteps : Prop :=
  ∀ (s : State) (c : Ctl) (f : Fin 2) (e : Entry),
    let r := s.ctl c
    let x := s.fifo c f
    let on := r.msr.inak = false ∧ r.msr.slak = false ∧ e.rir.getLsbD 0 = false
    (¬ on → agentStep s (.deliver c f e) = s)
    ∧ (on → let t := agentStep s (.deliver c f e);
      (x.q.length < 2 → t.fifo c f = { x with q := x.q ++ [e] })
      ∧ (x.q.length = 2 → t.fifo c f = { x with q := x.q ++ [e], full := true })
      ∧ (x.q.length = 3 → r.mcr.getLsbD 3 = true → t.fifo c f = { x with fovr := true })
      ∧ (x.q.length = 3 → r.mcr.getLsbD 3 = false → t.fifo c f = { x with fovr := true, q := x.q.take 2 ++ [e] })
      ∧ (∀ e', x.q.head? = some e' → (t.fifo c f).q.head? = some e') ∧ (∀ g, g ≠ f → t.fifo c g = s.fifo c g)
      ∧ t.ctl c = { r with fifos := (t.ctl c).fifos })
    ∧ (x.rfom = false → agentStep s (.release c f) = s)
    ∧ (x.rfom = true → let t := agentStep s (.release c f)
      t.fifo c f = { x with q := x.q.tail, rfom := false } ∧ (∀ g, g ≠ f → t.fifo c g = s.fifo c g)
        ∧ t.ctl c = { r with fifos := (t.ctl c).fifos })

/-- 60 R296, R297: what the steps of ENV do: the acknowledgement, the error status, the wake-up. That a listed ACK or WAKE
which is not enabled does nothing is the model's choice (log 4), and so is that an ERROR which asks for ERRI without an
enabled cause sets ESR alone (log 8). -/
def Obligations.EnvSteps : Prop :=
  ∀ (s : State) (c : Ctl) (v : Word) (b : Bool),
    let r := s.ctl c
    let init := r.mcr.getLsbD 0
    let sleep := !init && r.mcr.getLsbD 1
    (let t := agentStep s (.ack c);
      (t.ctl c).msr = { r.msr with
          inak := init
          slak := sleep
          slaki := r.msr.slaki || (!r.msr.slak && sleep) }
      ∧ t.ctl c = { r with msr := (t.ctl c).msr } ∧ (r.msr.inak = init → r.msr.slak = sleep → t = s))
    ∧ (let t := agentStep s (.error c v b)
      let caused := (r.ier.getLsbD 8 && v.getLsbD 0) || (r.ier.getLsbD 9 && v.getLsbD 1)
        || (r.ier.getLsbD 10 && v.getLsbD 2) || (r.ier.getLsbD 11 && v.extractLsb' 4 3 != 0)
      t.ctl c = { r with esr := v &&& 0xFFFF0077, msr := { r.msr with erri := r.msr.erri || (b && caused) } })
    ∧ (let t := agentStep s (.wake c);
      ((r.msr.inak = true ∨ r.msr.slak = false) → t = s)
      ∧ (r.msr.inak = false → r.msr.slak = true →
        t.ctl c = { r with
          msr := { r.msr with wkui := true }
          mcr := if r.mcr.getLsbD 5 then r.mcr &&& 0xFFFFFFFD else r.mcr }))

/-- 43 R208, 44 R235, 10 R48: an agent step leaves the other instance, the filter registers, the Fault record, the
results, IER, BTR and every mailbox's identifier, length, TGT, low payload word and Written flags; the high payload word
may change only under the time-triggered condition of R211; it makes no empty mailbox pending and leaves an empty mailbox
as it is. -/
def Obligations.AgentStepFrame : Prop :=
  ∀ (s : State) (a : AgentStep),
    let t := agentStep s a
    t.filters = s.filters ∧ t.fault = s.fault ∧ t.res = s.res ∧ t.ops = s.ops ∧ t.params = s.params
    ∧ t.agenda = s.agenda ∧ t.gaps = s.gaps ∧ (∀ d, d ≠ a.owner → t.ctl d = s.ctl d)
    ∧ (∀ d, (t.ctl d).ier = (s.ctl d).ier ∧ (t.ctl d).btr = (s.ctl d).btr)
    ∧ ∀ d m, let x := s.mb d m; let y := t.mb d m
        y.ident = x.ident ∧ y.dlc = x.dlc ∧ y.tgt = x.tgt ∧ y.tdl = x.tdl ∧ y.wroteTi = x.wroteTi
        ∧ y.wroteTdt = x.wroteTdt ∧ y.wroteTdl = x.wroteTdl ∧ y.wroteTdh = x.wroteTdh
        ∧ (y.tdh = x.tdh ∨ ((s.ctl d).mcr.getLsbD 7 = true ∧ x.tgt = true ∧ x.dlc = 8))
        ∧ (x.txrq = false → y = x)

/-! ### Frames -/

/-- 20 R86; 41, 42, 46: a pure command (BT.SYNTH, BT.FREQ, FW.*, ID.*) changes nothing but the result and the Fault
record. With no agent step between its reads, a command that only reads (REG.RD, BT.READ, TX.SELECT, TX.READBACK,
TX.STATUS, RX.READ without release, RX.COUNT, IRQ.PEND) changes nothing but those and the draw numbers. -/
def Obligations.NonWritingCommandsFrame : Prop :=
  ∀ (i : Instr) (s t : State), exec i s = .next t →
    (isPure i = true → SameBlock s t ∧ t.draws = s.draws) ∧ (onlyReads i = true → s.quiet → SameBlock s t)

/-- 10 R48, 60 R295, 40 R142: with no agent step between its accesses a command leaves the instance it does not name,
and only the raw writes of instance 0 change a filter register. -/
def Obligations.InstanceIsolation : Prop :=
  ∀ (i : Instr) (s t : State), s.quiet → exec i s = .next t →
    (∀ d, d ≠ i.instField → t.ctl d = s.ctl d) ∧ (mayWriteFilters i = false → t.filters = s.filters)
end

