-- ==== Sys2Proof/Laws/State.lean ====
section
/-! SUPPORT. Small lemmas of the state updates: what each accessor gives after each update, so that no later proof
unfolds a record update or a Vector. -/

namespace Sys2Proof.Machine

/-! ### Mailboxes and FIFOs of an instance -/

@[simp] theorem Ctrl.mb_setMb_self (r : Ctrl) (m : Fin 3) (x : Mailbox) : (r.setMb m x).mb m = x := by
  simp [Ctrl.mb, Ctrl.setMb, Vector.get_eq_getElem]

theorem Ctrl.mb_setMb (r : Ctrl) (m n : Fin 3) (x : Mailbox) :
    (r.setMb m x).mb n = if n = m then x else r.mb n := by
  simp only [Ctrl.mb, Ctrl.setMb, Vector.get_eq_getElem, Vector.getElem_set, Fin.ext_iff, eq_comm]

@[simp] theorem Ctrl.mb_setMb_ne (r : Ctrl) {m n : Fin 3} (x : Mailbox) (h : n ≠ m) :
    (r.setMb m x).mb n = r.mb n := by simp [Ctrl.mb_setMb, h]

@[simp] theorem Ctrl.fifo_setFifo_self (r : Ctrl) (f : Fin 2) (x : Fifo) : (r.setFifo f x).fifo f = x := by
  simp [Ctrl.fifo, Ctrl.setFifo, Vector.get_eq_getElem]

theorem Ctrl.fifo_setFifo (r : Ctrl) (f g : Fin 2) (x : Fifo) :
    (r.setFifo f x).fifo g = if g = f then x else r.fifo g := by
  simp only [Ctrl.fifo, Ctrl.setFifo, Vector.get_eq_getElem, Vector.getElem_set, Fin.ext_iff, eq_comm]

@[simp] theorem Ctrl.fifo_setFifo_ne (r : Ctrl) {f g : Fin 2} (x : Fifo) (h : g ≠ f) :
    (r.setFifo f x).fifo g = r.fifo g := by simp [Ctrl.fifo_setFifo, h]

@[simp] theorem Ctrl.fifo_setMb (r : Ctrl) (m : Fin 3) (x : Mailbox) (f : Fin 2) :
    (r.setMb m x).fifo f = r.fifo f := rfl
@[simp] theorem Ctrl.mcr_setMb (r : Ctrl) (m : Fin 3) (x : Mailbox) : (r.setMb m x).mcr = r.mcr := rfl
@[simp] theorem Ctrl.msr_setMb (r : Ctrl) (m : Fin 3) (x : Mailbox) : (r.setMb m x).msr = r.msr := rfl
@[simp] theorem Ctrl.ier_setMb (r : Ctrl) (m : Fin 3) (x : Mailbox) : (r.setMb m x).ier = r.ier := rfl
@[simp] theorem Ctrl.esr_setMb (r : Ctrl) (m : Fin 3) (x : Mailbox) : (r.setMb m x).esr = r.esr := rfl
@[simp] theorem Ctrl.btr_setMb (r : Ctrl) (m : Fin 3) (x : Mailbox) : (r.setMb m x).btr = r.btr := rfl
@[simp] theorem Ctrl.reqOrder_setMb (r : Ctrl) (m : Fin 3) (x : Mailbox) :
    (r.setMb m x).reqOrder = r.reqOrder := rfl
@[simp] theorem Ctrl.fifos_setMb (r : Ctrl) (m : Fin 3) (x : Mailbox) : (r.setMb m x).fifos = r.fifos := rfl

@[simp] theorem Ctrl.mb_setFifo (r : Ctrl) (f : Fin 2) (x : Fifo) (m : Fin 3) :
    (r.setFifo f x).mb m = r.mb m := rfl
@[simp] theorem Ctrl.mcr_setFifo (r : Ctrl) (f : Fin 2) (x : Fifo) : (r.setFifo f x).mcr = r.mcr := rfl
@[simp] theorem Ctrl.msr_setFifo (r : Ctrl) (f : Fin 2) (x : Fifo) : (r.setFifo f x).msr = r.msr := rfl
@[simp] theorem Ctrl.ier_setFifo (r : Ctrl) (f : Fin 2) (x : Fifo) : (r.setFifo f x).ier = r.ier := rfl
@[simp] theorem Ctrl.esr_setFifo (r : Ctrl) (f : Fin 2) (x : Fifo) : (r.setFifo f x).esr = r.esr := rfl
@[simp] theorem Ctrl.btr_setFifo (r : Ctrl) (f : Fin 2) (x : Fifo) : (r.setFifo f x).btr = r.btr := rfl
@[simp] theorem Ctrl.reqOrder_setFifo (r : Ctrl) (f : Fin 2) (x : Fifo) :
    (r.setFifo f x).reqOrder = r.reqOrder := rfl
@[simp] theorem Ctrl.mbs_setFifo (r : Ctrl) (f : Fin 2) (x : Fifo) : (r.setFifo f x).mbs = r.mbs := rfl

/-- Mailboxes see only the field they stand in: an update of the other fields leaves them. -/
theorem Ctrl.mb_congr {r r' : Ctrl} (h : r.mbs = r'.mbs) (m : Fin 3) : r.mb m = r'.mb m := by simp [Ctrl.mb, h]

/-- As `Ctrl.mb_congr`, for FIFOs. -/
theorem Ctrl.fifo_congr {r r' : Ctrl} (h : r.fifos = r'.fifos) (f : Fin 2) : r.fifo f = r'.fifo f := by
  simp [Ctrl.fifo, h]

/-! ### Instances of the machine -/

@[simp] theorem State.ctl_primary (s : State) : s.ctl .primary = s.primary := rfl
@[simp] theorem State.ctl_secondary (s : State) : s.ctl .secondary = s.secondary := rfl

@[simp] theorem State.ctl_setCtl_self (s : State) (c : Ctl) (r : Ctrl) : (s.setCtl c r).ctl c = r := by
  cases c <;> rfl

theorem State.ctl_setCtl (s : State) (c d : Ctl) (r : Ctrl) :
    (s.setCtl c r).ctl d = if d = c then r else s.ctl d := by cases c <;> cases d <;> rfl

@[simp] theorem State.ctl_setCtl_ne (s : State) {c d : Ctl} (r : Ctrl) (h : d ≠ c) :
    (s.setCtl c r).ctl d = s.ctl d := by simp [State.ctl_setCtl, h]

@[simp] theorem State.setCtl_setCtl (s : State) (c : Ctl) (r r' : Ctrl) :
    (s.setCtl c r).setCtl c r' = s.setCtl c r' := by cases c <;> rfl

@[simp] theorem State.setCtl_ctl (s : State) (c : Ctl) : s.setCtl c (s.ctl c) = s := by cases c <;> rfl

@[simp] theorem State.filters_setCtl (s : State) (c : Ctl) (r : Ctrl) : (s.setCtl c r).filters = s.filters := by
  cases c <;> rfl
@[simp] theorem State.fault_setCtl (s : State) (c : Ctl) (r : Ctrl) : (s.setCtl c r).fault = s.fault := by
  cases c <;> rfl
@[simp] theorem State.ops_setCtl (s : State) (c : Ctl) (r : Ctrl) : (s.setCtl c r).ops = s.ops := by cases c <;> rfl
@[simp] theorem State.res_setCtl (s : State) (c : Ctl) (r : Ctrl) : (s.setCtl c r).res = s.res := by cases c <;> rfl
@[simp] theorem State.params_setCtl (s : State) (c : Ctl) (r : Ctrl) : (s.setCtl c r).params = s.params := by
  cases c <;> rfl
@[simp] theorem State.draws_setCtl (s : State) (c : Ctl) (r : Ctrl) : (s.setCtl c r).draws = s.draws := by
  cases c <;> rfl
@[simp] theorem State.agenda_setCtl (s : State) (c : Ctl) (r : Ctrl) : (s.setCtl c r).agenda = s.agenda := by
  cases c <;> rfl
@[simp] theorem State.gaps_setCtl (s : State) (c : Ctl) (r : Ctrl) : (s.setCtl c r).gaps = s.gaps := by
  cases c <;> rfl

/-! ### The updates of the other fields -/

@[simp] theorem State.primary_setFilters (s : State) (x : Filters) : (s.setFilters x).primary = s.primary := rfl
@[simp] theorem State.secondary_setFilters (s : State) (x : Filters) : (s.setFilters x).secondary = s.secondary := rfl
@[simp] theorem State.filters_setFilters (s : State) (x : Filters) : (s.setFilters x).filters = x := rfl
@[simp] theorem State.fault_setFilters (s : State) (x : Filters) : (s.setFilters x).fault = s.fault := rfl
@[simp] theorem State.ops_setFilters (s : State) (x : Filters) : (s.setFilters x).ops = s.ops := rfl
@[simp] theorem State.res_setFilters (s : State) (x : Filters) : (s.setFilters x).res = s.res := rfl
@[simp] theorem State.params_setFilters (s : State) (x : Filters) : (s.setFilters x).params = s.params := rfl
@[simp] theorem State.draws_setFilters (s : State) (x : Filters) : (s.setFilters x).draws = s.draws := rfl
@[simp] theorem State.agenda_setFilters (s : State) (x : Filters) : (s.setFilters x).agenda = s.agenda := rfl
@[simp] theorem State.gaps_setFilters (s : State) (x : Filters) : (s.setFilters x).gaps = s.gaps := rfl
@[simp] theorem State.ctl_setFilters (s : State) (x : Filters) (c : Ctl) : (s.setFilters x).ctl c = s.ctl c := by
  cases c <;> rfl

@[simp] theorem State.primary_setRes (s : State) (x : Results) : (s.setRes x).primary = s.primary := rfl
@[simp] theorem State.secondary_setRes (s : State) (x : Results) : (s.setRes x).secondary = s.secondary := rfl
@[simp] theorem State.filters_setRes (s : State) (x : Results) : (s.setRes x).filters = s.filters := rfl
@[simp] theorem State.fault_setRes (s : State) (x : Results) : (s.setRes x).fault = s.fault := rfl
@[simp] theorem State.ops_setRes (s : State) (x : Results) : (s.setRes x).ops = s.ops := rfl
@[simp] theorem State.res_setRes (s : State) (x : Results) : (s.setRes x).res = x := rfl
@[simp] theorem State.params_setRes (s : State) (x : Results) : (s.setRes x).params = s.params := rfl
@[simp] theorem State.draws_setRes (s : State) (x : Results) : (s.setRes x).draws = s.draws := rfl
@[simp] theorem State.agenda_setRes (s : State) (x : Results) : (s.setRes x).agenda = s.agenda := rfl
@[simp] theorem State.gaps_setRes (s : State) (x : Results) : (s.setRes x).gaps = s.gaps := rfl
@[simp] theorem State.ctl_setRes (s : State) (x : Results) (c : Ctl) : (s.setRes x).ctl c = s.ctl c := by
  cases c <;> rfl

@[simp] theorem State.primary_setGaps (s : State) (x : List (List AgentStep)) : (s.setGaps x).primary = s.primary := rfl
@[simp] theorem State.secondary_setGaps (s : State) (x : List (List AgentStep)) : (s.setGaps x).secondary = s.secondary := rfl
@[simp] theorem State.filters_setGaps (s : State) (x : List (List AgentStep)) : (s.setGaps x).filters = s.filters := rfl
@[simp] theorem State.fault_setGaps (s : State) (x : List (List AgentStep)) : (s.setGaps x).fault = s.fault := rfl
@[simp] theorem State.ops_setGaps (s : State) (x : List (List AgentStep)) : (s.setGaps x).ops = s.ops := rfl
@[simp] theorem State.res_setGaps (s : State) (x : List (List AgentStep)) : (s.setGaps x).res = s.res := rfl
@[simp] theorem State.params_setGaps (s : State) (x : List (List AgentStep)) : (s.setGaps x).params = s.params := rfl
@[simp] theorem State.draws_setGaps (s : State) (x : List (List AgentStep)) : (s.setGaps x).draws = s.draws := rfl
@[simp] theorem State.agenda_setGaps (s : State) (x : List (List AgentStep)) : (s.setGaps x).agenda = s.agenda := rfl
@[simp] theorem State.gaps_setGaps (s : State) (x : List (List AgentStep)) : (s.setGaps x).gaps = x := rfl
@[simp] theorem State.ctl_setGaps (s : State) (x : List (List AgentStep)) (c : Ctl) : (s.setGaps x).ctl c = s.ctl c := by
  cases c <;> rfl

@[simp] theorem State.primary_advance (s : State) (x : Nat) : (s.advance x).primary = s.primary := rfl
@[simp] theorem State.secondary_advance (s : State) (x : Nat) : (s.advance x).secondary = s.secondary := rfl
@[simp] theorem State.filters_advance (s : State) (x : Nat) : (s.advance x).filters = s.filters := rfl
@[simp] theorem State.fault_advance (s : State) (x : Nat) : (s.advance x).fault = s.fault := rfl
@[simp] theorem State.ops_advance (s : State) (x : Nat) : (s.advance x).ops = s.ops := rfl
@[simp] theorem State.res_advance (s : State) (x : Nat) : (s.advance x).res = s.res := rfl
@[simp] theorem State.params_advance (s : State) (x : Nat) : (s.advance x).params = s.params := rfl
@[simp] theorem State.draws_advance (s : State) (x : Nat) : (s.advance x).draws = s.draws + x := rfl
@[simp] theorem State.agenda_advance (s : State) (x : Nat) : (s.advance x).agenda = s.agenda := rfl
@[simp] theorem State.gaps_advance (s : State) (x : Nat) : (s.advance x).gaps = s.gaps := rfl
@[simp] theorem State.ctl_advance (s : State) (x : Nat) (c : Ctl) : (s.advance x).ctl c = s.ctl c := by
  cases c <;> rfl

theorem State.mb_def (s : State) (c : Ctl) (m : Fin 3) : s.mb c m = (s.ctl c).mb m := rfl
theorem State.fifo_def (s : State) (c : Ctl) (f : Fin 2) : s.fifo c f = (s.ctl c).fifo f := rfl
theorem State.setMb_def (s : State) (c : Ctl) (m : Fin 3) (x : Mailbox) :
    s.setMb c m x = s.setCtl c ((s.ctl c).setMb m x) := rfl
theorem State.setFifo_def (s : State) (c : Ctl) (f : Fin 2) (x : Fifo) :
    s.setFifo c f x = s.setCtl c ((s.ctl c).setFifo f x) := rfl

@[simp] theorem State.mb_setMb_self (s : State) (c : Ctl) (m : Fin 3) (x : Mailbox) : (s.setMb c m x).mb c m = x := by
  simp [State.mb_def, State.setMb_def]

/-! ### Filter banks -/

@[simp] theorem Filters.bank_setBank_self (x : Filters) (n : Fin 28) (b : Bank) : (x.setBank n b).bank n = b := by
  simp [Filters.bank, Filters.setBank, Vector.get_eq_getElem]

theorem Filters.bank_setBank (x : Filters) (n k : Fin 28) (b : Bank) :
    (x.setBank n b).bank k = if k = n then b else x.bank k := by
  simp only [Filters.bank, Filters.setBank, Vector.get_eq_getElem, Vector.getElem_set, Fin.ext_iff, eq_comm]

/-! ### After reset -/

@[simp] theorem Ctrl.mb_reset (m : Fin 3) : Ctrl.reset.mb m = Mailbox.reset := by
  simp [Ctrl.mb, Ctrl.reset, Vector.get_eq_getElem]

@[simp] theorem Ctrl.fifo_reset (f : Fin 2) : Ctrl.reset.fifo f = Fifo.reset := by
  simp [Ctrl.fifo, Ctrl.reset, Vector.get_eq_getElem]

@[simp] theorem Filters.bank_reset (n : Fin 28) : Filters.reset.bank n = Bank.reset := by
  simp [Filters.bank, Filters.reset, Vector.get_eq_getElem]

@[simp] theorem State.ctl_reset (c : Ctl) : State.reset.ctl c = Ctrl.reset := by cases c <;> rfl

end Sys2Proof.Machine
end

