-- ==== Sys2Proof/Laws/Ops.lean ====
section
/-! SUPPORT. One lemma per shared operation: what a command answers, how its parts chain, what an operand read, a gap
and a reset do. -/

namespace Sys2Proof.Machine

/-! ### The command monad -/

@[simp] theorem Cmd.pure_apply {α : Type} (a : α) (s : State) : (pure a : Cmd α) s = .ok a s := rfl

/-- A part that answers a value hands it, and its state, to the rest. -/
theorem Cmd.bind_ok {α β : Type} {c : Cmd α} {f : α → Cmd β} {s s' : State} {a : α} (h : c s = .ok a s') :
    (c >>= f) s = f a s' := by
  show EStateM.bind c f s = _
  simp [EStateM.bind, h]

/-- A part that raises ends the whole. -/
theorem Cmd.bind_error {α β : Type} {c : Cmd α} {f : α → Cmd β} {s s' : State} {e : Fault}
    (h : c s = .error e s') : (c >>= f) s = .error e s' := by
  show EStateM.bind c f s = _
  simp [EStateM.bind, h]

/-- A sequence, unfolded once. -/
theorem Cmd.bind_apply {α β : Type} (c : Cmd α) (f : α → Cmd β) (s : State) :
    (c >>= f) s = match c s with
      | .ok a s' => f a s'
      | .error e s' => .error e s' := by
  show EStateM.bind c f s = _
  unfold EStateM.bind
  cases c s <;> rfl

@[simp] theorem raise_apply {α : Type} (f : Fault) (s : State) : (raise f : Cmd α) s = .error f s := rfl

/-! ### What a command answers -/

/-- Every command answers a next state where no fault is recorded, and stops where one is (60 R280). -/
theorem command_cases (s : State) (body : Cmd Results) :
    (s.fault = none ∧ command s body = .next (finish (body s)))
      ∨ ∃ f, s.fault = some f ∧ command s body = .fault f := by
  unfold command
  cases h : s.fault with
  | none => exact .inl ⟨rfl, rfl⟩
  | some f => exact .inr ⟨f, rfl, rfl⟩

theorem command_next {s : State} (h : s.fault = none) (body : Cmd Results) :
    command s body = .next (finish (body s)) := by simp [command, h]

theorem command_ok {s s' : State} {body : Cmd Results} {r : Results} (h : s.fault = none)
    (hb : body s = .ok r s') : command s body = .next (s'.setRes r) := by
  simp [command_next h, hb, finish]

theorem command_error {s s' : State} {body : Cmd Results} {f : Fault} (h : s.fault = none)
    (hb : body s = .error f s') : command s body = .next (recordFault f s') := by
  simp [command_next h, hb, finish]

theorem command_faulted {s : State} {f : Fault} (h : s.fault = some f) (body : Cmd Results) :
    command s body = .fault f := by simp [command, h]

/-- A command that answers a next state ran from a state with no fault. -/
theorem command_next_inv {s t : State} {body : Cmd Results} (h : command s body = .next t) :
    s.fault = none ∧ t = finish (body s) := by
  rcases command_cases s body with ⟨hf, hc⟩ | ⟨f, _, hc⟩
  · rw [hc] at h; cases h; exact ⟨hf, rfl⟩
  · rw [hc] at h; cases h

@[simp] theorem ctl_recordFault (f : Fault) (s : State) (c : Ctl) : (recordFault f s).ctl c = s.ctl c := by
  cases c <;> rfl
@[simp] theorem filters_recordFault (f : Fault) (s : State) : (recordFault f s).filters = s.filters := rfl
@[simp] theorem params_recordFault (f : Fault) (s : State) : (recordFault f s).params = s.params := rfl
@[simp] theorem res_recordFault (f : Fault) (s : State) : (recordFault f s).res = Results.absent := rfl

/-- The first fault is the one recorded (10 R45). -/
theorem fault_recordFault (f : Fault) (s : State) : (recordFault f s).fault = some (s.fault.getD f) := rfl

/-! ### Operands -/

theorem operand_ok {s : State} {i w : Nat} (h : s.ops.slot i < 2 ^ w) : operand i w s = .ok (s.ops.slot i) s := by
  simp [operand, h]

theorem operand_bad {s : State} {i w : Nat} (h : ¬ s.ops.slot i < 2 ^ w) :
    operand i w s = .error (.operandRange i (s.ops.slot i)) s := by simp only [operand, if_neg h]

/-- Reading an operand changes nothing; it answers the slot's value, or raises F_OPERAND_RANGE (30 R113). -/
theorem operand_cases (s : State) (i w : Nat) :
    (s.ops.slot i < 2 ^ w ∧ operand i w s = .ok (s.ops.slot i) s)
      ∨ (¬ s.ops.slot i < 2 ^ w ∧ operand i w s = .error (.operandRange i (s.ops.slot i)) s) := by
  by_cases h : s.ops.slot i < 2 ^ w
  · exact .inl ⟨h, operand_ok h⟩
  · exact .inr ⟨h, operand_bad h⟩

theorem operandWord_ok {s : State} {i : Nat} (h : s.ops.slot i < 2 ^ 32) :
    operandWord i s = .ok (BitVec.ofNat 32 (s.ops.slot i)) s := by
  simp only [operandWord, Cmd.bind_ok (operand_ok h), Cmd.pure_apply]

theorem operandWord_bad {s : State} {i : Nat} (h : ¬ s.ops.slot i < 2 ^ 32) :
    operandWord i s = .error (.operandRange i (s.ops.slot i)) s := by
  simp only [operandWord, Cmd.bind_error (operand_bad h)]

@[simp] theorem Operands.slot_one (x : Operands) : x.slot 1 = x.x1 := rfl
@[simp] theorem Operands.slot_two (x : Operands) : x.slot 2 = x.x2 := rfl
@[simp] theorem Operands.slot_three (x : Operands) : x.slot 3 = x.x3 := rfl
@[simp] theorem Operands.slot_four (x : Operands) : x.slot 4 = x.x4 := rfl
@[simp] theorem Operands.slot_five (x : Operands) : x.slot 5 = x.x5 := rfl

/-! ### Gaps and draws -/

@[simp] theorem gap_apply (s : State) : gap s = .ok () (runGap s) := rfl

/-- With nothing scheduled between the accesses a gap does nothing. -/
@[simp] theorem runGap_quiet {s : State} (h : s.gaps = []) : runGap s = s := by simp [runGap, h]

@[simp] theorem draw_apply (s : State) : draw s = .ok (Config.draw s.draws) (s.advance 1) := rfl

/-- choose(E) picks a member of E (10 R28). -/
theorem choose_mem {e : List (Fin 3)} (h : e ≠ []) (d : BitVec 64) : choose e d ∈ e := by
  have hl : d.toNat % e.length < e.length := Nat.mod_lt _ (List.length_pos_iff.mpr h)
  simp [choose, List.getD_eq_getElem?_getD, List.getElem?_eq_getElem hl]

/-! ### Reset -/

@[simp] theorem ctl_softwareReset_self (c : Ctl) (s : State) : (softwareReset c s).ctl c = Ctrl.reset := by
  simp [softwareReset]

theorem ctl_softwareReset (c d : Ctl) (s : State) :
    (softwareReset c s).ctl d = if d = c then Ctrl.reset else s.ctl d := by simp [softwareReset, State.ctl_setCtl]

@[simp] theorem filters_softwareReset (c : Ctl) (s : State) : (softwareReset c s).filters = s.filters := by
  simp [softwareReset]

theorem ctl_hostReset (c d : Ctl) (s : State) : (hostReset c s).ctl d = if d = c then Ctrl.reset else s.ctl d := by
  cases c <;> simp [hostReset, ctl_softwareReset]

theorem filters_hostReset (c : Ctl) (s : State) :
    (hostReset c s).filters = if c = .primary then Filters.reset else s.filters := by
  cases c <;> simp [hostReset]

theorem fault_hostReset (c : Ctl) (s : State) : (hostReset c s).fault = s.fault := by
  cases c <;> simp [hostReset, softwareReset]

end Sys2Proof.Machine
end

