-- ==== Sys2Proof/Laws/Engine.lean ====
section
/-! SUPPORT. What an agent step can do, said once: its cases, its frame, and that a run of steps keeps what each step
keeps. -/

namespace Sys2Proof.Machine

/-- An agent step is not taken, or it changes its own instance by its effect and takes its two draw numbers. -/
theorem agentStep_cases (s : State) (a : AgentStep) :
    (a.enabledIn s.params (s.ctl a.owner) = false ∧ agentStep s a = s)
      ∨ (a.enabledIn s.params (s.ctl a.owner) = true ∧ agentStep s a =
          (s.setCtl a.owner
            (a.effect (Config.draw s.draws) (Config.draw (s.draws + 1)) (s.ctl a.owner))).advance 2) := by
  unfold agentStep
  cases h : a.enabledIn s.params (s.ctl a.owner)
  · exact .inl ⟨rfl, by simp [h]⟩
  · exact .inr ⟨rfl, by simp [h]⟩

/-- A property every single step keeps, every run of steps keeps. -/
theorem agentSteps_induct {P : State → Prop} (h : ∀ s a, P s → P (agentStep s a)) (l : List AgentStep) (s : State)
    (hs : P s) : P (agentSteps s l) := by
  induction l generalizing s with
  | nil => exact hs
  | cons a l ih => exact ih _ (h _ _ hs)

/-- A gap keeps what every agent step keeps, and takes the first list of the schedule. -/
theorem runGap_induct {P : State → Prop} (hg : ∀ s g, P s → P (s.setGaps g))
    (h : ∀ s a, P s → P (agentStep s a)) (s : State) (hs : P s) : P (runGap s) := by
  unfold runGap
  split
  · exact hs
  · exact agentSteps_induct h _ _ (hg _ _ hs)

@[simp] theorem filters_agentStep (s : State) (a : AgentStep) : (agentStep s a).filters = s.filters := by
  rcases agentStep_cases s a with ⟨_, h⟩ | ⟨_, h⟩ <;> simp [h]
@[simp] theorem fault_agentStep (s : State) (a : AgentStep) : (agentStep s a).fault = s.fault := by
  rcases agentStep_cases s a with ⟨_, h⟩ | ⟨_, h⟩ <;> simp [h]
@[simp] theorem ops_agentStep (s : State) (a : AgentStep) : (agentStep s a).ops = s.ops := by
  rcases agentStep_cases s a with ⟨_, h⟩ | ⟨_, h⟩ <;> simp [h]
@[simp] theorem res_agentStep (s : State) (a : AgentStep) : (agentStep s a).res = s.res := by
  rcases agentStep_cases s a with ⟨_, h⟩ | ⟨_, h⟩ <;> simp [h]
@[simp] theorem params_agentStep (s : State) (a : AgentStep) : (agentStep s a).params = s.params := by
  rcases agentStep_cases s a with ⟨_, h⟩ | ⟨_, h⟩ <;> simp [h]
@[simp] theorem agenda_agentStep (s : State) (a : AgentStep) : (agentStep s a).agenda = s.agenda := by
  rcases agentStep_cases s a with ⟨_, h⟩ | ⟨_, h⟩ <;> simp [h]
@[simp] theorem gaps_agentStep (s : State) (a : AgentStep) : (agentStep s a).gaps = s.gaps := by
  rcases agentStep_cases s a with ⟨_, h⟩ | ⟨_, h⟩ <;> simp [h]

/-- A step of one instance leaves the other instance (43 R208, 44 R235). -/
theorem ctl_agentStep_ne (s : State) (a : AgentStep) {c : Ctl} (hc : c ≠ a.owner) :
    (agentStep s a).ctl c = s.ctl c := by
  rcases agentStep_cases s a with ⟨_, h⟩ | ⟨_, h⟩ <;> simp [h, hc]

/-- No effect of an agent step touches IER or BTR. -/
theorem ier_effect (a : AgentStep) (d0 d1 : BitVec 64) (r : Ctrl) : (a.effect d0 d1 r).ier = r.ier := by
  cases a <;> rfl
theorem btr_effect (a : AgentStep) (d0 d1 : BitVec 64) (r : Ctrl) : (a.effect d0 d1 r).btr = r.btr := by
  cases a <;> rfl

/-- What every agent step keeps of an instance's field, the state keeps. -/
theorem ctl_agentStep_keeps {β : Type} (g : Ctrl → β) (hg : ∀ a d0 d1 r, g (AgentStep.effect a d0 d1 r) = g r)
    (s : State) (a : AgentStep) (c : Ctl) : g ((agentStep s a).ctl c) = g (s.ctl c) := by
  by_cases hc : c = a.owner
  · subst hc
    rcases agentStep_cases s a with ⟨_, h⟩ | ⟨_, h⟩ <;> simp [h, hg]
  · rw [ctl_agentStep_ne s a hc]

@[simp] theorem ier_agentStep (s : State) (a : AgentStep) (c : Ctl) :
    ((agentStep s a).ctl c).ier = (s.ctl c).ier := ctl_agentStep_keeps _ (fun a d0 d1 r => ier_effect a d0 d1 r) s a c
@[simp] theorem btr_agentStep (s : State) (a : AgentStep) (c : Ctl) :
    ((agentStep s a).ctl c).btr = (s.ctl c).btr := ctl_agentStep_keeps _ (fun a d0 d1 r => btr_effect a d0 d1 r) s a c

/-- An agent step leaves an empty mailbox as it is (43 R190, R208). -/
theorem mb_agentStep_empty (s : State) (a : AgentStep) (c : Ctl) (m : Fin 3) (hm : (s.mb c m).txrq = false) :
    (agentStep s a).mb c m = s.mb c m := by
  by_cases hc : c = a.owner
  · subst hc
    rcases agentStep_cases s a with ⟨_, h⟩ | ⟨he, h⟩
    · rw [h]
    · simp only [h, State.mb_def, State.ctl_advance, State.ctl_setCtl_self]
      rw [State.mb_def] at hm
      have key : ∀ (n : Fin 3) (x : Mailbox), ((s.ctl a.owner).mb n).txrq = true →
          ((s.ctl a.owner).setMb n x).mb m = (s.ctl a.owner).mb m := by
        intro n x hn
        refine Ctrl.mb_setMb_ne _ _ ?_
        rintro rfl
        rw [hm] at hn
        cases hn
      cases a with
      | complete c n o =>
        exact key n _ (by simp [AgentStep.enabledIn, Ctrl.canComplete] at he; exact he.1.1.1)
      | retry c n o =>
        exact key n _ (by simp [AgentStep.enabledIn, Ctrl.canRetry] at he; exact he.1.1.1.1)
      | abort c n =>
        exact key n _ (by simp [AgentStep.enabledIn, Ctrl.canAbort] at he; exact he.2)
      | deliver c f e => rfl
      | release c f => rfl
      | ack c => rfl
      | error c e b => rfl
      | wake c => rfl
  · simp only [State.mb_def, ctl_agentStep_ne s a hc]

@[simp] theorem filters_agentSteps (s : State) (l : List AgentStep) : (agentSteps s l).filters = s.filters :=
  agentSteps_induct (P := fun t => t.filters = s.filters) (fun _ _ h => by simp [h]) l s rfl
@[simp] theorem params_agentSteps (s : State) (l : List AgentStep) : (agentSteps s l).params = s.params :=
  agentSteps_induct (P := fun t => t.params = s.params) (fun _ _ h => by simp [h]) l s rfl
@[simp] theorem fault_agentSteps (s : State) (l : List AgentStep) : (agentSteps s l).fault = s.fault :=
  agentSteps_induct (P := fun t => t.fault = s.fault) (fun _ _ h => by simp [h]) l s rfl
@[simp] theorem ops_agentSteps (s : State) (l : List AgentStep) : (agentSteps s l).ops = s.ops :=
  agentSteps_induct (P := fun t => t.ops = s.ops) (fun _ _ h => by simp [h]) l s rfl

@[simp] theorem filters_runGap (s : State) : (runGap s).filters = s.filters :=
  runGap_induct (P := fun t => t.filters = s.filters) (fun _ _ h => h) (fun _ _ h => by simp [h]) s rfl
@[simp] theorem params_runGap (s : State) : (runGap s).params = s.params :=
  runGap_induct (P := fun t => t.params = s.params) (fun _ _ h => h) (fun _ _ h => by simp [h]) s rfl
@[simp] theorem fault_runGap (s : State) : (runGap s).fault = s.fault :=
  runGap_induct (P := fun t => t.fault = s.fault) (fun _ _ h => h) (fun _ _ h => by simp [h]) s rfl
@[simp] theorem ops_runGap (s : State) : (runGap s).ops = s.ops :=
  runGap_induct (P := fun t => t.ops = s.ops) (fun _ _ h => h) (fun _ _ h => by simp [h]) s rfl
@[simp] theorem agenda_runGap (s : State) : (runGap s).agenda = s.agenda :=
  runGap_induct (P := fun t => t.agenda = s.agenda) (fun _ _ h => h) (fun _ _ h => by simp [h]) s rfl
@[simp] theorem ier_runGap (s : State) (c : Ctl) : ((runGap s).ctl c).ier = (s.ctl c).ier :=
  runGap_induct (P := fun t => (t.ctl c).ier = (s.ctl c).ier) (fun _ _ h => by simpa using h)
    (fun _ _ h => by simp [h]) s rfl
@[simp] theorem btr_runGap (s : State) (c : Ctl) : ((runGap s).ctl c).btr = (s.ctl c).btr :=
  runGap_induct (P := fun t => (t.ctl c).btr = (s.ctl c).btr) (fun _ _ h => by simpa using h)
    (fun _ _ h => by simp [h]) s rfl

/-- A gap leaves an empty mailbox as it is. -/
theorem mb_runGap_empty (s : State) (c : Ctl) (m : Fin 3) (hm : (s.mb c m).txrq = false) :
    (runGap s).mb c m = s.mb c m :=
  runGap_induct (P := fun t => t.mb c m = s.mb c m) (fun _ _ h => by simpa [State.mb_def] using h)
    (fun t a h => by rw [mb_agentStep_empty t a c m (by rw [h, hm]), h]) s rfl

end Sys2Proof.Machine
end

