-- ==== Sys2Proof/Laws/Registers.lean ====
section
/-! SUPPORT. The register window and its accesses: an offset names its register and no other, what a read and a write
can answer, and which bits of a read value are defined. -/

namespace Sys2Proof.Machine

/-! ### The window -/

/-- A register's own offset names it, in an instance that has it (20 R81). -/
theorem regAt_offset (c : Ctl) (r : Reg) (h : r.isFilter = true → c = .primary) : regAt c r.offset = some r := by
  cases r with
  | fr1 n => obtain rfl := h rfl; revert n; decide
  | fr2 n => obtain rfl := h rfl; revert n; decide
  | fmr => obtain rfl := h rfl; decide
  | fm1r => obtain rfl := h rfl; decide
  | fs1r => obtain rfl := h rfl; decide
  | ffa1r => obtain rfl := h rfl; decide
  | fa1r => obtain rfl := h rfl; decide
  | rfr f => revert f; cases c <;> decide
  | ti m => revert m; cases c <;> decide
  | tdt m => revert m; cases c <;> decide
  | tdl m => revert m; cases c <;> decide
  | tdh m => revert m; cases c <;> decide
  | ri f => revert f; cases c <;> decide
  | rdt f => revert f; cases c <;> decide
  | rdl f => revert f; cases c <;> decide
  | rdh f => revert f; cases c <;> decide
  | mcr => cases c <;> decide
  | msr => cases c <;> decide
  | tsr => cases c <;> decide
  | ier => cases c <;> decide
  | esr => cases c <;> decide
  | btr => cases c <;> decide

/-- A read at a register's own offset is a read of that register. -/
theorem memRead_offset (c : Ctl) (r : Reg) (h : r.isFilter = true → c = .primary) :
    memRead c r.offset 4 = readAt c r := by simp [memRead, regAt_offset c r h]

/-- A write at a register's own offset is a write of that register. -/
theorem memWrite_offset (c : Ctl) (r : Reg) (v : Word) (h : r.isFilter = true → c = .primary) :
    memWrite c r.offset 4 v = writeReg c r v := by simp [memWrite, regAt_offset c r h]

theorem memRead_tsr (c : Ctl) : memRead c 0x008 4 = readAt c .tsr := memRead_offset c .tsr (by simp [Reg.isFilter])
theorem memRead_btr (c : Ctl) : memRead c 0x01C 4 = readAt c .btr := memRead_offset c .btr (by simp [Reg.isFilter])
theorem memWrite_btr (c : Ctl) (v : Word) : memWrite c 0x01C 4 v = writeBtr c v :=
  memWrite_offset c .btr v (by simp [Reg.isFilter])
theorem memRead_ti (c : Ctl) (m : Fin 3) : memRead c (0x180 + 0x10 * m.val) 4 = readAt c (.ti m) :=
  memRead_offset c (.ti m) (by simp [Reg.isFilter])
theorem memRead_tdt (c : Ctl) (m : Fin 3) : memRead c (0x180 + 0x10 * m.val + 0x4) 4 = readAt c (.tdt m) := by
  rw [← memRead_offset c (.tdt m) (by simp [Reg.isFilter])]; congr 1; simp [Reg.offset]; omega
theorem memRead_tdl (c : Ctl) (m : Fin 3) : memRead c (0x180 + 0x10 * m.val + 0x8) 4 = readAt c (.tdl m) := by
  rw [← memRead_offset c (.tdl m) (by simp [Reg.isFilter])]; congr 1; simp [Reg.offset]; omega
theorem memRead_tdh (c : Ctl) (m : Fin 3) : memRead c (0x180 + 0x10 * m.val + 0xC) 4 = readAt c (.tdh m) := by
  rw [← memRead_offset c (.tdh m) (by simp [Reg.isFilter])]; congr 1; simp [Reg.offset]; omega
theorem memWrite_ti (c : Ctl) (m : Fin 3) (v : Word) :
    memWrite c (0x180 + 0x10 * m.val) 4 v = writeTi c m v := memWrite_offset c (.ti m) v (by simp [Reg.isFilter])
theorem memWrite_tdt (c : Ctl) (m : Fin 3) (v : Word) :
    memWrite c (0x180 + 0x10 * m.val + 0x4) 4 v = writeData c m (fun x => x.setTdt v) := by
  show _ = writeReg c (.tdt m) v
  rw [← memWrite_offset c (.tdt m) v (by simp [Reg.isFilter])]; congr 1; simp [Reg.offset]; omega
theorem memWrite_tdl (c : Ctl) (m : Fin 3) (v : Word) :
    memWrite c (0x180 + 0x10 * m.val + 0x8) 4 v = writeData c m (fun x => x.setTdl v) := by
  show _ = writeReg c (.tdl m) v
  rw [← memWrite_offset c (.tdl m) v (by simp [Reg.isFilter])]; congr 1; simp [Reg.offset]; omega
theorem memWrite_tdh (c : Ctl) (m : Fin 3) (v : Word) :
    memWrite c (0x180 + 0x10 * m.val + 0xC) 4 v = writeData c m (fun x => x.setTdh v) := by
  show _ = writeReg c (.tdh m) v
  rw [← memWrite_offset c (.tdh m) v (by simp [Reg.isFilter])]; congr 1; simp [Reg.offset]; omega
theorem memRead_rfr (c : Ctl) (f : Fin 2) : memRead c (rfOff f) 4 = readAt c (.rfr f) :=
  memRead_offset c (.rfr f) (by simp [Reg.isFilter])
theorem memWrite_rfr (c : Ctl) (f : Fin 2) (v : Word) : memWrite c (rfOff f) 4 v = writeRfr c f v :=
  memWrite_offset c (.rfr f) v (by simp [Reg.isFilter])
theorem memRead_ri (c : Ctl) (f : Fin 2) : memRead c (riOff f) 4 = readAt c (.ri f) :=
  memRead_offset c (.ri f) (by simp [Reg.isFilter])
theorem memRead_rdt (c : Ctl) (f : Fin 2) : memRead c (riOff f + 0x4) 4 = readAt c (.rdt f) := by
  rw [← memRead_offset c (.rdt f) (by simp [Reg.isFilter])]; congr 1; simp [Reg.offset, riOff]; omega
theorem memRead_rdl (c : Ctl) (f : Fin 2) : memRead c (riOff f + 0x8) 4 = readAt c (.rdl f) := by
  rw [← memRead_offset c (.rdl f) (by simp [Reg.isFilter])]; congr 1; simp [Reg.offset, riOff]; omega
theorem memRead_rdh (c : Ctl) (f : Fin 2) : memRead c (riOff f + 0xC) 4 = readAt c (.rdh f) := by
  rw [← memRead_offset c (.rdh f) (by simp [Reg.isFilter])]; congr 1; simp [Reg.offset, riOff]; omega

/-! ### What an access can do -/

theorem readAt_ok {c : Ctl} {r : Reg} {s : State} {v : Word} (h : readReg c r s = .ok v) :
    readAt c r s = .ok v (s.advance 2) := by simp [readAt, h]

/-- A read gives a value and takes two draw numbers, or raises with nothing changed (20 R86). -/
theorem memRead_cases (c : Ctl) (off n : Nat) (s : State) :
    (∃ v, memRead c off n s = .ok v (s.advance 2)) ∨ ∃ f, memRead c off n s = .error f s := by
  unfold memRead
  by_cases hn : n = 4
  · cases hr : regAt c off with
    | none => exact .inr ⟨.badOffset c off, by simp [hn]⟩
    | some r =>
      cases hv : readReg c r s with
      | error f => exact .inr ⟨f, by simp [hn, readAt, hv]⟩
      | ok v => exact .inl ⟨v, by simp [hn, readAt, hv]⟩
  · exact .inr ⟨.badWidth c off n, by simp [hn]⟩

/-- An access of another width faults before anything else (20 R83, 60 R283). -/
theorem memRead_width (c : Ctl) (off : Nat) {n : Nat} (h : n ≠ 4) (s : State) :
    memRead c off n s = .error (.badWidth c off n) s := by simp [memRead, h]
theorem memWrite_width (c : Ctl) (off : Nat) {n : Nat} (h : n ≠ 4) (v : Word) (s : State) :
    memWrite c off n v s = .error (.badWidth c off n) s := by simp [memWrite, h]

/-! ### Bits of read values -/

@[simp] theorem getLsbD_bitAt (b : Bool) (n k : Nat) : (bitAt b n).getLsbD k = (b && decide (k = n) && decide (k < 32)) := by
  simp only [bitAt, BitVec.getLsbD_shiftLeft, BitVec.getLsbD_setWidth, BitVec.getLsbD_ofBool]
  rcases Nat.lt_trichotomy k n with h | h | h
  · have h2 : k ≠ n := by omega
    simp [h, h2]
  · subst h; by_cases hk : k < 32 <;> simp [hk]
  · have h1 : ¬ k < n := by omega
    have h2 : k ≠ n := by omega
    have h3 : k - n ≠ 0 := by omega
    simp [h2, h3]

@[simp] theorem getElem_bitAt (b : Bool) (n k : Nat) (hk : k < 32) : (bitAt b n)[k] = (b && decide (k = n)) := by
  rw [← BitVec.getLsbD_eq_getElem, getLsbD_bitAt]; simp [hk]

theorem getLsbD_overlay (mask v : Word) (d : BitVec 64) (k : Nat) :
    (overlay mask v d).getLsbD k
      = if mask.getLsbD k then v.getLsbD k else decide (k < 32) && d.getLsbD k := by
  by_cases hk : k < 32
  · simp only [overlay, BitVec.getLsbD_or, BitVec.getLsbD_and, BitVec.getLsbD_not, BitVec.getLsbD_setWidth, hk]
    cases h : mask.getLsbD k <;> simp
  · have h1 : mask.getLsbD k = false := BitVec.getLsbD_of_ge _ _ (by omega)
    simp [overlay, hk, h1]

/-- The defined bits of a read value are the stored ones. -/
theorem overlay_and {mask m v : Word} (h : m &&& mask = m) (d : BitVec 64) : overlay mask v d &&& m = v &&& m := by
  ext k hk
  have hm : m.getLsbD k = (m.getLsbD k && mask.getLsbD k) := by rw [← BitVec.getLsbD_and, h]
  have := getLsbD_overlay mask v d k
  simp only [← BitVec.getLsbD_eq_getElem, BitVec.getLsbD_and] at *
  rw [this]
  cases hc : mask.getLsbD k <;> simp_all

/-- A field of defined bits reads as stored. -/
theorem extract_overlay {mask v : Word} (lo len : Nat) (h : ∀ k < len, mask.getLsbD (lo + k) = true) (d : BitVec 64) :
    (overlay mask v d).extractLsb' lo len = v.extractLsb' lo len := by
  ext k hk
  simp only [BitVec.getElem_extractLsb']
  rw [getLsbD_overlay, if_pos (h k hk)]

end Sys2Proof.Machine
end

