-- ==== Sys2Proof/Laws/Flags.lean ====
section
/-! SUPPORT. The computed fields: which bit of TSR, MSR and RFfR is which flag, and which mailbox CODE names. -/

namespace Sys2Proof.Machine

/-! ### The bits of TSR -/

theorem tsrBits_getLsbD (x : Mailbox) (k : Nat) :
    x.tsrBits.getLsbD k = (x.rqcp && decide (k = 0) || x.txok && decide (k = 1) || x.alst && decide (k = 2)
      || x.terr && decide (k = 3) || x.abrq && decide (k = 7)) := by
  simp only [Mailbox.tsrBits, BitVec.getLsbD_or, getLsbD_bitAt]
  by_cases hk : k < 32
  · simp [hk]
  · have h0 : k ≠ 0 := by omega
    have h1 : k ≠ 1 := by omega
    have h2 : k ≠ 2 := by omega
    have h3 : k ≠ 3 := by omega
    have h7 : k ≠ 7 := by omega
    simp [h0, h1, h2, h3, h7]

/-- Every bit of the TSR word, by its position. -/
theorem tsrWord_getLsbD (r : Ctrl) (p : Params) (d : BitVec 64) (k : Nat) (hk : k < 32) :
    (r.tsrWord p d).getLsbD k =
      ((r.mb 0).tsrBits.getLsbD k
      || (decide (8 ≤ k) && (r.mb 1).tsrBits.getLsbD (k - 8))
      || (decide (16 ≤ k) && (r.mb 2).tsrBits.getLsbD (k - 16))
      || (decide (24 ≤ k) && (r.code p d).val.testBit (k - 24))
      || ((r.mb 0).empty && decide (k = 26)) || ((r.mb 1).empty && decide (k = 27))
      || ((r.mb 2).empty && decide (k = 28))
      || (r.low 0 && decide (k = 29)) || (r.low 1 && decide (k = 30)) || (r.low 2 && decide (k = 31))) := by
  have h24 : k - 24 < 32 := by omega
  simp only [Ctrl.tsrWord, BitVec.getLsbD_or, BitVec.getLsbD_shiftLeft, getLsbD_bitAt, BitVec.getLsbD_ofNat, hk,
    h24, decide_true, Bool.true_and, Bool.and_true, ← decide_not, Nat.not_lt]

/-- CODE is a mailbox index, so its two low bits hold it. -/
theorem code_testBit (r : Ctrl) (p : Params) (d : BitVec 64) (k : Nat) (hk : 2 ≤ k) :
    (r.code p d).val.testBit k = false := by
  have h : (r.code p d).val < 2 ^ k :=
    Nat.lt_of_lt_of_le (r.code p d).isLt (Nat.le_trans (by decide : 3 ≤ 2 ^ 2) (Nat.pow_le_pow_right (by decide) hk))
  exact Nat.testBit_lt_two_pow h

/-- RQCPm, TXOKm, ALSTm, TERRm and TMEm stand where 10 R26 puts them. -/
theorem tsrWord_flags (r : Ctrl) (p : Params) (d : BitVec 64) (m : Fin 3) :
    (r.tsrWord p d).getLsbD (26 + m.val) = (r.mb m).empty
    ∧ (r.tsrWord p d).getLsbD (8 * m.val) = (r.mb m).rqcp
    ∧ (r.tsrWord p d).getLsbD (8 * m.val + 1) = (r.mb m).txok
    ∧ (r.tsrWord p d).getLsbD (8 * m.val + 2) = (r.mb m).alst
    ∧ (r.tsrWord p d).getLsbD (8 * m.val + 3) = (r.mb m).terr := by
  have h2 := code_testBit r p d 2 (by decide)
  have h3 := code_testBit r p d 3 (by decide)
  have h4 := code_testBit r p d 4 (by decide)
  match m with
  | 0 =>
    refine ⟨?_, ?_, ?_, ?_, ?_⟩ <;>
      (rw [tsrWord_getLsbD _ _ _ _ (by decide)]; simp only [tsrBits_getLsbD]; simp [h2])
  | 1 =>
    refine ⟨?_, ?_, ?_, ?_, ?_⟩ <;>
      (rw [tsrWord_getLsbD _ _ _ _ (by decide)]; simp only [tsrBits_getLsbD]; simp [h3])
  | 2 =>
    refine ⟨?_, ?_, ?_, ?_, ?_⟩ <;>
      (rw [tsrWord_getLsbD _ _ _ _ (by decide)]; simp only [tsrBits_getLsbD]; simp [h4])

/-- CODE stands in bits 25:24 (10 R26). -/
theorem tsrWord_code (r : Ctrl) (p : Params) (d : BitVec 64) :
    ((r.tsrWord p d).extractLsb' 24 2).toNat = (r.code p d).val := by
  have h : (r.tsrWord p d).extractLsb' 24 2 = BitVec.ofNat 2 (r.code p d).val := by
    ext k hk
    rw [BitVec.getElem_extractLsb', tsrWord_getLsbD _ _ _ _ (by omega)]
    rcases (by omega : k = 0 ∨ k = 1) with rfl | rfl <;>
      simp [tsrBits_getLsbD, ← BitVec.getLsbD_eq_getElem, BitVec.getLsbD_ofNat]
  rw [h, BitVec.toNat_ofNat, Nat.mod_eq_of_lt]
  exact Nat.lt_trans (r.code p d).isLt (by decide)

/-- TME stands in bits 28:26 (10 R26): the field is 0 exactly when no mailbox is empty. -/
theorem tsrWord_tme (r : Ctrl) (p : Params) (d : BitVec 64) :
    ((r.tsrWord p d).extractLsb' 26 3 = 0) ↔ ∀ m, (r.mb m).txrq = true := by
  have h := fun m => (tsrWord_flags r p d m).1
  constructor
  · intro h0 m
    have : (r.tsrWord p d).getLsbD (26 + m.val) = false := by
      have := congrArg (fun v => v.getLsbD m.val) h0
      simpa [BitVec.getLsbD_extractLsb', m.isLt] using this
    rw [h m] at this
    simpa [Mailbox.empty] using this
  · intro h0
    ext k hk
    have := h ⟨k, hk⟩
    simp only [Mailbox.empty, h0] at this
    rw [BitVec.getElem_extractLsb', this]
    simp

/-! ### The mailbox CODE names -/

theorem mem_empties (r : Ctrl) (m : Fin 3) : m ∈ r.empties ↔ (r.mb m).txrq = false := by
  have : m ∈ mailboxes := by revert m; decide
  simp [Ctrl.empties, this, Mailbox.empty]

theorem mem_pending (r : Ctrl) (m : Fin 3) : m ∈ r.pending ↔ (r.mb m).txrq = true := by
  have : m ∈ mailboxes := by revert m; decide
  simp [Ctrl.pending, this]

/-- Where a mailbox is empty, CODE names an empty one, whatever the policy and the draw (10 R28). -/
theorem code_empty (r : Ctrl) (p : Params) (d : BitVec 64) (h : ∃ m, (r.mb m).txrq = false) :
    (r.mb (r.code p d)).txrq = false := by
  obtain ⟨m, hm⟩ := h
  rw [← mem_empties] at hm ⊢
  unfold Ctrl.code
  cases he : r.empties with
  | nil => rw [he] at hm; cases hm
  | cons a l =>
    cases p.codePolicy with
    | lowestIndex => simp
    | any => exact choose_mem (by simp) d

/-! ### MSR and RFfR -/

theorem msrWord_getLsbD (x : Msr) (k : Nat) :
    x.word.getLsbD k = (x.inak && decide (k = 0) || x.slak && decide (k = 1) || x.erri && decide (k = 2)
      || x.wkui && decide (k = 3) || x.slaki && decide (k = 4)) := by
  simp only [Msr.word, BitVec.getLsbD_or, getLsbD_bitAt]
  by_cases hk : k < 32
  · simp [hk]
  · have h0 : k ≠ 0 := by omega
    have h1 : k ≠ 1 := by omega
    have h2 : k ≠ 2 := by omega
    have h3 : k ≠ 3 := by omega
    have h4 : k ≠ 4 := by omega
    simp [h0, h1, h2, h3, h4]

/-- FMP, FULL, FOVR and RFOM stand where 10 R30 puts them. -/
theorem fifoWord_fields (x : Fifo) :
    (x.word.extractLsb' 0 2).toNat = x.q.length % 4 ∧ x.word.getLsbD 3 = x.full ∧ x.word.getLsbD 4 = x.fovr
      ∧ x.word.getLsbD 5 = x.rfom := by
  refine ⟨?_, ?_, ?_, ?_⟩
  · have h : x.word.extractLsb' 0 2 = BitVec.ofNat 2 x.q.length := by
      ext k hk
      rw [BitVec.getElem_extractLsb']
      rcases (by omega : k = 0 ∨ k = 1) with rfl | rfl <;> simp [Fifo.word, getElem_bitAt]
    rw [h, BitVec.toNat_ofNat]
  all_goals simp [Fifo.word, getElem_bitAt]

end Sys2Proof.Machine
end

