-- ==== Sys2Proof/Laws/PerInstr.lean ====
section
/-! SUPPORT. Per command: its command word has OPC in bits 7:0 and its reserved bits 31:12 zero (30 R109). -/

namespace Sys2Proof.Laws.WordLayout

/-- OPC stands in bits 7:0 of the command word, and bits 31:12 are 0 (30 R109). -/
def Statement (i : Instr) : Prop := (encode i).extractLsb' 0 8 = i.opcode ∧ (encode i).extractLsb' 12 20 = 0

theorem regRd (c : Ctl) : Statement (.regRd c) := by unfold Statement; cases c <;> decide
theorem regWr (c : Ctl) : Statement (.regWr c) := by unfold Statement; cases c <;> decide
theorem regRmw (c : Ctl) : Statement (.regRmw c) := by unfold Statement; cases c <;> decide
theorem btSynth : Statement .btSynth := by unfold Statement; decide
theorem btFreq : Statement .btFreq := by unfold Statement; decide
theorem btApply (c : Ctl) : Statement (.btApply c) := by unfold Statement; cases c <;> decide
theorem btRead (c : Ctl) : Statement (.btRead c) := by unfold Statement; cases c <;> decide
theorem btClear (c : Ctl) : Statement (.btClear c) := by unfold Statement; cases c <;> decide
theorem fwL32 : Statement .fwL32 := by unfold Statement; decide
theorem fwL16 : Statement .fwL16 := by unfold Statement; decide
theorem fwM32 : Statement .fwM32 := by unfold Statement; decide
theorem fwM16 : Statement .fwM16 := by unfold Statement; decide
theorem fwEnc16 : Statement .fwEnc16 := by unfold Statement; decide
theorem fwDec16 : Statement .fwDec16 := by unfold Statement; decide
theorem idEnc : Statement .idEnc := by unfold Statement; decide
theorem idDec : Statement .idDec := by unfold Statement; decide
theorem idCmp : Statement .idCmp := by unfold Statement; decide
theorem idCmpm : Statement .idCmpm := by unfold Statement; decide
theorem idCmps : Statement .idCmps := by unfold Statement; decide
theorem idCmpsm : Statement .idCmpsm := by unfold Statement; decide
theorem idMkstd : Statement .idMkstd := by unfold Statement; decide
theorem idMkext : Statement .idMkext := by unfold Statement; decide
theorem idFields : Statement .idFields := by unfold Statement; decide
theorem txSelect (c : Ctl) : Statement (.txSelect c) := by unfold Statement; cases c <;> decide
theorem txSend (c : Ctl) : Statement (.txSend c) := by unfold Statement; cases c <;> decide
theorem txReadback (c : Ctl) (idx : BitVec 2) : Statement (.txReadback c idx) := by
  unfold Statement; cases c <;> revert idx <;> decide
theorem txStatus (c : Ctl) (idx : BitVec 2) : Statement (.txStatus c idx) := by
  unfold Statement; cases c <;> revert idx <;> decide
theorem rxRead (c : Ctl) (idx : BitVec 2) (rel : Bool) : Statement (.rxRead c idx rel) := by
  unfold Statement; cases c <;> cases rel <;> revert idx <;> decide
theorem rxRelease (c : Ctl) (idx : BitVec 2) : Statement (.rxRelease c idx) := by
  unfold Statement; cases c <;> revert idx <;> decide
theorem rxCount (c : Ctl) (idx : BitVec 2) : Statement (.rxCount c idx) := by
  unfold Statement; cases c <;> revert idx <;> decide
theorem irqPend (c : Ctl) : Statement (.irqPend c) := by unfold Statement; cases c <;> decide
theorem irqClr (c : Ctl) : Statement (.irqClr c) := by unfold Statement; cases c <;> decide

end Sys2Proof.Laws.WordLayout
end

