-- ==== Sys2Proof/Laws/Transmit.lean ====
section
/-! SUPPORT. What a TSR read tells the transmit commands, and what TX.SEND's six accesses after it do: with any agent
steps between them they write the mailbox and request its transmission (43 R192). -/

namespace Sys2Proof.Machine

/-! ### The TSR read -/

/-- The empty check of a TSR read: true exactly where every mailbox is pending (43 R191). -/
theorem tsrNoneEmpty_read (r : Ctrl) (p : Params) (d d' : BitVec 64) :
    tsrNoneEmpty (overlay tsrMask (r.tsrWord p d) d') = true ↔ ∀ m, (r.mb m).txrq = true := by
  rw [tsrNoneEmpty, beq_iff_eq, extract_overlay 26 3 (by decide)]
  exact tsrWord_tme r p d

/-- CODE of a TSR read (43 R191). -/
theorem tsrCode_read (r : Ctrl) (p : Params) (d d' : BitVec 64) :
    tsrCode (overlay tsrMask (r.tsrWord p d) d') = (r.code p d).val := by
  rw [tsrCode, extract_overlay 24 2 (by decide)]
  exact tsrWord_code r p d

/-! ### The accesses of TX.SEND -/

/-- What agent steps and the writes of one mailbox leave alone: everything but the instance's mailboxes, FIFOs, MSR, ESR,
MCR and request order. -/
structure Spared (s t : State) : Prop where
  ier : ∀ c, (t.ctl c).ier = (s.ctl c).ier
  btr : ∀ c, (t.ctl c).btr = (s.ctl c).btr
  filters : t.filters = s.filters
  params : t.params = s.params
  ops : t.ops = s.ops
  fault : t.fault = s.fault
  agenda : t.agenda = s.agenda

theorem Spared.refl (s : State) : Spared s s := ⟨fun _ => rfl, fun _ => rfl, rfl, rfl, rfl, rfl, rfl⟩

theorem Spared.trans {s t u : State} (h : Spared s t) (k : Spared t u) : Spared s u :=
  ⟨fun c => (k.ier c).trans (h.ier c), fun c => (k.btr c).trans (h.btr c), k.filters.trans h.filters,
    k.params.trans h.params, k.ops.trans h.ops, k.fault.trans h.fault, k.agenda.trans h.agenda⟩

theorem Spared.gap (s : State) : Spared s (runGap s) := by constructor <;> simp

theorem Spared.advance (s : State) (n : Nat) : Spared s (s.advance n) := by constructor <;> simp

theorem Spared.setMb (s : State) (c : Ctl) (m : Fin 3) (x : Mailbox) : Spared s (s.setMb c m x) := by
  constructor <;> simp only [State.setMb_def, State.filters_setCtl, State.params_setCtl, State.ops_setCtl,
    State.fault_setCtl, State.agenda_setCtl, State.ctl_setCtl]
  all_goals intro d; split <;> simp_all

/-- After a gap an empty mailbox is as it was. -/
theorem mb_gap {s : State} {c : Ctl} {m : Fin 3} {x : Mailbox} (h : s.mb c m = x) (hx : x.txrq = false) :
    (runGap s).mb c m = x := by rw [mb_runGap_empty s c m (by rw [h, hx]), h]

/-- A TImR write that requests nothing stores the identifier of an empty mailbox (40 R139). -/
theorem writeTi_store {s : State} {c : Ctl} {m : Fin 3} {x : Mailbox} {v : Word} (h : s.mb c m = x)
    (hx : x.txrq = false) (hv : v.getLsbD 0 = false) :
    writeTi c m v s = .ok () (s.setMb c m { x with ident := v.extractLsb' 1 31, wroteTi := true }) := by
  subst h; simp only [writeTi, hx, hv, Bool.false_eq_true, if_false]

/-- A TImR write with TXRQ = 1 over a mailbox whose data are written requests the transmission (40 R139). -/
theorem writeTi_request {s : State} {c : Ctl} {m : Fin 3} {x : Mailbox} {v : Word} (h : s.mb c m = x)
    (hx : x.txrq = false) (hv : v.getLsbD 0 = true) (h1 : x.wroteTdt = true) (h2 : x.wroteTdl = true)
    (h3 : x.wroteTdh = true) :
    writeTi c m v s = .ok () (s.setCtl c { (s.ctl c).setMb m
      { x with
        ident := v.extractLsb' 1 31
        wroteTi := true
        txrq := true
        rqcp := false
        txok := false
        alst := false
        terr := false } with
      reqOrder := (s.ctl c).reqOrder ++ [m] }) := by
  cases x
  simp only at hx h1 h2 h3
  subst hx h1 h2 h3
  simp only [writeTi, h, hv, Mailbox.missing, Bool.false_eq_true, if_false, if_true, State.setMb_def,
    State.ctl_setCtl_self, State.setCtl_setCtl, Mailbox.requested]
  simp [Ctrl.setMb]

/-- A write to a data register of an empty mailbox (40 R140). -/
theorem writeData_ok {s : State} {c : Ctl} {m : Fin 3} {x : Mailbox} (h : s.mb c m = x) (hx : x.txrq = false)
    (f : Mailbox → Mailbox) : writeData c m f s = .ok () (s.setMb c m (f x)) := by
  subst h; unfold writeData; rw [if_neg (by simp [hx])]

/-- The mailbox TX.SEND leaves, from the mailbox x it found (43 R193); w is the payload written. -/
def sentMailbox (x : Mailbox) (mobid : Word) (dlc : BitVec 4) (w : BitVec 64) : Mailbox :=
  { x with
    ident := (canon mobid).extractLsb' 1 31
    txrq := true
    dlc := dlc
    tgt := false
    tdl := packLo w
    tdh := packHi w
    wroteTi := true
    wroteTdt := true
    wroteTdl := true
    wroteTdh := true
    rqcp := false
    txok := false
    alst := false
    terr := false }

theorem canon_bit0 (m : Word) : (canon m).getLsbD 0 = false := by unfold canon; split <;> simp

/-- Masking bit 0 keeps the identifier bits. -/
theorem masked_ident (w : Word) : (w &&& 0xFFFFFFFE).extractLsb' 1 31 = w.extractLsb' 1 31 := by
  ext k hk
  simp only [BitVec.getElem_extractLsb', BitVec.getLsbD_and]
  have : ∀ k < 31, (0xFFFFFFFE : Word).getLsbD (1 + k) = true := by decide
  rw [this k hk, Bool.and_true]

/-- TX.SEND's accesses after its TSR read, into an empty mailbox: they do not fault, they leave it as `sentMailbox` says
and last in the request order, whatever agent steps fall between them (43 R192, R193, R208). -/
theorem sendInto_ok (c : Ctl) (m : Fin 3) (mobid : Word) (p : BitVec 64) (dlc : BitVec 4) (s : State)
    (h : (s.mb c m).txrq = false) :
    ∃ (t : State) (d : BitVec 64), sendInto c (0x180 + 0x10 * m.val) mobid p dlc s = .ok () t ∧ Spared s t
      ∧ t.mb c m = sentMailbox (s.mb c m) mobid dlc (sentPayload p (nbytes dlc) d)
      ∧ (t.ctl c).reqOrder.getLast? = some m := by
  generalize hx : s.mb c m = x at h ⊢
  -- the identifier
  have a1 := mb_gap hx h
  have b1 : (canon mobid &&& 0xFFFFFFFE).getLsbD 0 = false := by simp
  have w1 := writeTi_store a1 h b1
  generalize hs1 : (runGap s).setMb c m _ = s1 at w1
  have k1 : Spared s s1 := hs1 ▸ (Spared.gap s).trans (Spared.setMb _ c m _)
  have m1 : s1.mb c m = { x with ident := (canon mobid).extractLsb' 1 31, wroteTi := true } := by
    rw [← hs1, State.mb_setMb_self, masked_ident]
  -- the length
  have a2 := mb_gap m1 h
  have w2 := writeData_ok a2 h (fun y => y.setTdt (dlc.setWidth 32))
  generalize hs2 : (runGap s1).setMb c m _ = s2 at w2
  have k2 : Spared s s2 := hs2 ▸ (k1.trans (Spared.gap s1)).trans (Spared.setMb _ c m _)
  have m2 : s2.mb c m = { x with
      ident := (canon mobid).extractLsb' 1 31
      wroteTi := true
      dlc := dlc
      tgt := false
      wroteTdt := true } := by
    rw [← hs2, State.mb_setMb_self]
    have e1 : (dlc.setWidth 32).extractLsb' 0 4 = dlc := by
      apply BitVec.eq_of_toNat_eq; have := dlc.isLt; simp; omega
    have e2 : (dlc.setWidth 32).getLsbD 8 = false := by simp
    simp only [Mailbox.setTdt, e1, e2]
  -- the payload
  generalize hd : sentPayload p (nbytes dlc) (Config.draw s2.draws) = w
  have m2' : (s2.advance 1).mb c m = s2.mb c m := by simp [State.mb_def]
  have a3 := mb_gap (m2'.trans m2) h
  have w3 := writeData_ok a3 h (fun y => y.setTdl (packLo w))
  generalize hs3 : (runGap (s2.advance 1)).setMb c m _ = s3 at w3
  have k3 : Spared s s3 := hs3 ▸ ((k2.trans (Spared.advance s2 1)).trans (Spared.gap _)).trans (Spared.setMb _ c m _)
  have m3 := congrArg (fun u => State.mb u c m) hs3.symm
  simp only [State.mb_setMb_self] at m3
  have a4 := mb_gap m3 h
  have w4 := writeData_ok a4 h (fun y => y.setTdh (packHi w))
  generalize hs4 : (runGap s3).setMb c m _ = s4 at w4
  have k4 : Spared s s4 := hs4 ▸ (k3.trans (Spared.gap s3)).trans (Spared.setMb _ c m _)
  have m4 := congrArg (fun u => State.mb u c m) hs4.symm
  simp only [State.mb_setMb_self] at m4
  -- the request
  have a5 := mb_gap m4 h
  have r5 : readAt c (.ti m) (runGap s4) = .ok ((canon mobid).extractLsb' 1 31 ++ (0 : BitVec 1)) ((runGap s4).advance 2) := by
    apply readAt_ok
    rw [State.mb_def] at a5
    simp only [readReg, a5, readWritten, if_true, Mailbox.tiWord, Mailbox.setTdh, Mailbox.setTdl, h]
    rfl
  have a5' : ((runGap s4).advance 2).mb c m = (runGap s4).mb c m := by simp [State.mb_def]
  have a6 := mb_gap (a5'.trans a5) h
  have b6 : ((canon mobid).extractLsb' 1 31 ++ (0 : BitVec 1) ||| 0x1 : Word).getLsbD 0 = true := by simp
  have w6 := writeTi_request a6 h b6 rfl rfl rfl
  have k5 : Spared s (runGap ((runGap s4).advance 2)) :=
    ((k4.trans (Spared.gap s4)).trans (Spared.advance _ 2)).trans (Spared.gap _)
  generalize hu : runGap ((runGap s4).advance 2) = u at w6 k5
  generalize hv : u.setCtl c _ = v at w6
  refine ⟨v, Config.draw s2.draws, ?_, ?_, ?_, ?_⟩
  · unfold sendInto
    rw [Cmd.bind_ok (gap_apply s), Nat.add_zero, memWrite_ti, Cmd.bind_ok w1, Cmd.bind_ok (gap_apply s1), memWrite_tdt,
      Cmd.bind_ok w2, Cmd.bind_ok (draw_apply s2)]
    simp only [hd]
    rw [Cmd.bind_ok (gap_apply _), memWrite_tdl, Cmd.bind_ok w3, Cmd.bind_ok (gap_apply _), memWrite_tdh,
      Cmd.bind_ok w4, Cmd.bind_ok (gap_apply _), memRead_ti, Cmd.bind_ok r5, Cmd.bind_ok (gap_apply _), hu, memWrite_ti]
    exact w6
  · refine k5.trans ?_
    rw [← hv]
    constructor <;> simp only [State.filters_setCtl, State.params_setCtl, State.ops_setCtl, State.fault_setCtl,
      State.agenda_setCtl, State.ctl_setCtl]
    all_goals intro d; split <;> simp_all
  · rw [← hv, hd, State.mb_def, State.ctl_setCtl_self]
    have e : ((canon mobid).extractLsb' 1 31 ++ (0 : BitVec 1) ||| 0x1 : Word).extractLsb' 1 31
        = (canon mobid).extractLsb' 1 31 := by
      ext k hk
      simp only [BitVec.getElem_extractLsb', BitVec.getLsbD_or, BitVec.getLsbD_append]
      simp [show ¬ 1 + k < 1 by omega, hk]
    rw [e]
    exact Ctrl.mb_setMb_self _ m _
  · rw [← hv, State.ctl_setCtl_self]; simp

end Sys2Proof.Machine
end

