-- ==== Sys2Proof/Tests/Slice0.lean ====
section
/-! SUPPORT. The model's own tests: the well-formedness smoke test, words written out from the spec's encoding, one or
two small tests per command taken from 95_test_vectors.md, and a witness for every obligation that has hypotheses. -/

namespace Sys2Proof.Tests

open Sys2Proof.Machine Sys2Proof.Spec

/-! ### Small states -/

/-- The state after reset, with an operand record. -/
def ops (a b c d e : Nat) : State := { State.reset with ops := ⟨a, b, c, d, e⟩ }

/-- The state a next outcome answers. -/
def after (o : Host.Outcome State Fault Refusal) : State :=
  match o with
  | .next s => s
  | _ => State.reset

/-- The result record a command leaves. -/
def resultsOf (i : Instr) (s : State) : Results := (after (exec i s)).res

/-- A state with the registers of instance 0 replaced. -/
def with0 (s : State) (r : Ctrl) : State := { s with primary := r }

/-- Instance 0 in Init mode, in Normal mode. -/
def initRegs : Ctrl := { Ctrl.reset with mcr := 0x00010001, msr := ⟨true, false, false, false, false⟩ }
def normalRegs : Ctrl := { Ctrl.reset with mcr := 0x00010000, msr := ⟨false, false, false, false, false⟩ }

/-- A mailbox written in full, with eight bytes, and one that is pending. -/
def fullBox : Mailbox :=
  { Mailbox.reset with
    ident := 0x12300000
    dlc := 8
    tdl := 0x04030201
    tdh := 0x08070605
    wroteTi := true
    wroteTdt := true
    wroteTdl := true
    wroteTdh := true }
def pendingBox : Mailbox := { fullBox with txrq := true }

/-- Instance 0 with mailbox m pending, with all three pending, in Normal mode. -/
def onePending (m : Fin 3) : Ctrl := { normalRegs.setMb m pendingBox with reqOrder := [m] }
def allPending : Ctrl :=
  { ((normalRegs.setMb 0 pendingBox).setMb 1 { pendingBox with ident := 0x48D159E2 }).setMb 2
      { pendingBox with ident := 0x10000000 } with reqOrder := [2, 0, 1] }

/-- Received entries, and instance 0 with n of them in FIFO f. -/
def entry (k : Nat) : Entry := ⟨0x24600000, 2, 4, BitVec.ofNat 16 k, 0xBBAA⟩
def withEntries (f : Fin 2) (l : List Entry) (full fovr rfom : Bool) : Ctrl :=
  normalRegs.setFifo f ⟨l, full, fovr, rfom⟩

/-! ### WellFormed: each check refuses an ill-formed term (30 R111; 00 R8) -/

theorem test_wf_readback_idx3 : (Instr.txReadback .primary 3).wf = false := by decide
theorem test_wf_status_idx3 : (Instr.txStatus .secondary 3).wf = false := by decide
theorem test_wf_read_idx2 : (Instr.rxRead .primary 2 true).wf = false := by decide
theorem test_wf_release_idx3 : (Instr.rxRelease .primary 3).wf = false := by decide
theorem test_wf_count_idx2 : (Instr.rxCount .primary 2).wf = false := by decide
theorem test_wf_params_narrow : Params.wf { Params.standard with brpBits := 8 } = false := by decide
theorem test_wf_params_wide : Params.wf { Params.standard with brpBits := 17 } = false := by decide
theorem test_wf_accepts : (Instr.txReadback .primary 2).wf = true ∧ (Instr.rxRead .primary 1 true).wf = true
    ∧ Params.standard.wf = true := by decide

/-! ### Words written out from 30 R109, R112: bits 31:12 zero, REL, IDX (2 bits), INST, OPC -/

theorem test_words_reg :
    decode 0b00000000000000000000_0_00_1_00000001 = .ok (.regRd .secondary)
    ∧ decode 0b00000000000000000000_0_00_0_00000010 = .ok (.regWr .primary)
    ∧ decode 0b00000000000000000000_0_00_1_00000011 = .ok (.regRmw .secondary) := by decide
theorem test_words_bt :
    decode 0b00000000000000000000_0_00_0_00010000 = .ok .btSynth
    ∧ decode 0b00000000000000000000_0_00_0_00010001 = .ok .btFreq
    ∧ decode 0b00000000000000000000_0_00_1_00010010 = .ok (.btApply .secondary)
    ∧ decode 0b00000000000000000000_0_00_0_00010011 = .ok (.btRead .primary)
    ∧ decode 0b00000000000000000000_0_00_1_00010100 = .ok (.btClear .secondary) := by decide
theorem test_words_fw :
    decode 0b00000000000000000000_0_00_0_00100000 = .ok .fwL32
    ∧ decode 0b00000000000000000000_0_00_0_00100001 = .ok .fwL16
    ∧ decode 0b00000000000000000000_0_00_0_00100010 = .ok .fwM32
    ∧ decode 0b00000000000000000000_0_00_0_00100011 = .ok .fwM16
    ∧ decode 0b00000000000000000000_0_00_0_00100100 = .ok .fwEnc16
    ∧ decode 0b00000000000000000000_0_00_0_00100101 = .ok .fwDec16 := by decide
theorem test_words_id :
    decode 0b00000000000000000000_0_00_0_00110000 = .ok .idEnc
    ∧ decode 0b00000000000000000000_0_00_0_00110001 = .ok .idDec
    ∧ decode 0b00000000000000000000_0_00_0_00110010 = .ok .idCmp
    ∧ decode 0b00000000000000000000_0_00_0_00110011 = .ok .idCmpm
    ∧ decode 0b00000000000000000000_0_00_0_00110100 = .ok .idCmps
    ∧ decode 0b00000000000000000000_0_00_0_00110101 = .ok .idCmpsm
    ∧ decode 0b00000000000000000000_0_00_0_00110110 = .ok .idMkstd
    ∧ decode 0b00000000000000000000_0_00_0_00110111 = .ok .idMkext
    ∧ decode 0b00000000000000000000_0_00_0_00111000 = .ok .idFields := by decide
theorem test_words_tx :
    decode 0b00000000000000000000_0_00_1_01000000 = .ok (.txSelect .secondary)
    ∧ decode 0b00000000000000000000_0_00_0_01000001 = .ok (.txSend .primary)
    ∧ decode 0b00000000000000000000_0_10_1_01000010 = .ok (.txReadback .secondary 2)
    ∧ decode 0b00000000000000000000_0_01_0_01000011 = .ok (.txStatus .primary 1) := by decide
theorem test_words_rx :
    decode 0b00000000000000000000_1_01_0_01010000 = .ok (.rxRead .primary 1 true)
    ∧ decode 0b00000000000000000000_0_00_1_01010000 = .ok (.rxRead .secondary 0 false)
    ∧ decode 0b00000000000000000000_0_01_1_01010001 = .ok (.rxRelease .secondary 1)
    ∧ decode 0b00000000000000000000_0_00_0_01010010 = .ok (.rxCount .primary 0) := by decide
theorem test_words_irq :
    decode 0b00000000000000000000_0_00_0_01100000 = .ok (.irqPend .primary)
    ∧ decode 0b00000000000000000000_0_00_1_01100001 = .ok (.irqClr .secondary) := by decide

/-- 95 V120, V134, V135, V164 to V167: illegal command words. -/
theorem test_words_illegal :
    decode 0x00000642 = .error .mailboxIndex ∧ decode 0x00000452 = .error .fifoIndex
    ∧ decode 0x00000851 = .error .noRow ∧ decode 0x00000000 = .error .noRow ∧ decode 0x00000110 = .error .noRow
    ∧ decode 0x00001001 = .error .noRow ∧ decode 0x00000039 = .error .noRow := by decide

/-- The first instruction after reset, as the host places it. -/
theorem test_first_instruction : step (State.reset.withFetchWord 32 0x13) =
    exec (.btRead .primary) (State.reset) := rfl

/-! ### The commands -/

/-- 95 V148, V149, V152. -/
theorem test_regRd_faults :
    (after (exec (.regRd .secondary) (ops 0x200 0 0 0 0))).fault = some (.badOffset .secondary 0x200)
    ∧ (after (exec (.regRd .primary) (ops 0x002 0 0 0 0))).fault = some (.badOffset .primary 0x002)
    ∧ (after (exec (.regRd .primary) (ops 0x180 0 0 0 0))).fault = some (.unwrittenRead .primary 0x180) := by decide
/-- 40 R143: a written TDHmR reads as stored. -/
theorem test_regRd_tdh :
    resultsOf (.regRd .primary) (with0 (ops 0x1AC 0 0 0 0) (Ctrl.reset.setMb 2 fullBox))
      = ⟨some 0x08070605, none, none, none, none⟩ := by decide
/-- 95 V157: INRQ may change in any mode. -/
theorem test_regWr_mcr :
    ((after (exec (.regWr .primary) (with0 (ops 0x000 0x00010001 0 0 0) normalRegs))).ctl .primary).mcr
      = 0x00010001 := by decide
/-- 95 V117: the identifier is written before the fault. -/
theorem test_regWr_ti :
    let t := after (exec (.regWr .primary) (ops 0x180 0x24600001 0 0 0))
    t.fault = some (.unwrittenRead .primary 0x184) ∧ (t.mb .primary 0).ident = 0x12300000
      ∧ (t.mb .primary 0).txrq = false := by decide
/-- 40 R132: the new value is (old & ~clr) | set, the result is the old one. -/
theorem test_regRmw :
    let t := after (exec (.regRmw .primary)
      (with0 (ops 0x188 0x0000000F 0x00000100 0 0) (Ctrl.reset.setMb 0 fullBox)))
    t.res = ⟨some 0x04030201, none, none, none, none⟩ ∧ (t.mb .primary 0).tdl = 0x04030300 := by decide

set_option maxRecDepth 8000 in
/-- 95 V1, V2. -/
theorem test_btSynth :
    resultsOf .btSynth (ops 42000000 500000 192 0 0) = ⟨some 1, some 6, some 10, some 3, some 3⟩
    ∧ resultsOf .btSynth (ops 42000000 125000 192 0 0) = ⟨some 1, some 21, some 11, some 4, some 4⟩ := ⟨rfl, rfl⟩
/-- 95 V8, V12, V13: synthesis fails. -/
theorem test_btSynth_fails :
    resultsOf .btSynth (ops 42000000 500000 255 0 0) = ⟨some 0, some 0, some 0, some 0, some 0⟩
    ∧ resultsOf .btSynth (ops 1000 2000 192 0 0) = ⟨some 0, some 0, some 0, some 0, some 0⟩
    ∧ resultsOf .btSynth (ops 42000000 0 192 0 0) = ⟨some 0, some 0, some 0, some 0, some 0⟩ :=
  ⟨rfl, rfl, rfl⟩
/-- 95 V32, V60. -/
theorem test_btFreq :
    resultsOf .btFreq (ops 42000000 1024 16 8 4) = ⟨some 1640, none, none, none, none⟩
    ∧ (after (exec .btFreq (ops 42000000 0 0 0 0))).fault = some (.divZero 0) := by decide
/-- 95 V34: the timing fields of BTR (its bits below SILM and LBKM). -/
theorem test_btApply_fields : btrTiming ⟨6, 10, 3, 3⟩ = 0x02290005 ∧ btrTiming ⟨512, 16, 8, 4⟩ = 0x037F01FF := by decide
/-- 95 V171, V172. -/
theorem test_btApply_range :
    (after (exec (.btApply .primary) (with0 (ops 6 10 3 4 0) initRegs))).fault = some (.descRange ⟨6, 10, 3, 4⟩)
    ∧ (after (exec (.btApply .primary) (with0 (ops 513 10 3 3 0) initRegs))).fault
      = some (.descRange ⟨513, 10, 3, 3⟩) := by decide
/-- 95 V39, V41. -/
theorem test_btRead_fields :
    descOf Params.standard 0x01230000 = ⟨1, 4, 3, 2⟩ ∧ descOf Params.standard 0x000003FF = ⟨1024, 1, 1, 1⟩ := by decide
/-- 95 V42. -/
theorem test_btClear :
    ((after (exec (.btClear .primary)
      (with0 (ops 0 0 0 0 0) { initRegs with btr := 0x42290005 }))).ctl .primary).btr = 0 := by decide

/-- 95 V61, V62. -/
theorem test_fwL32 :
    resultsOf .fwL32 (ops 0x24600001 0x91A2B3C4 0 0 0) = ⟨some 0x24600000, some 0x91A2B3C4, none, none, none⟩
    ∧ resultsOf .fwL32 (ops 0x2460000B 0xFFFFFFFF 0 0 0) = ⟨some 0x2460000A, some 0xFFFFFFFE, none, none, none⟩ := by
  decide
/-- 95 V63, in both layouts. -/
theorem test_fwL16 :
    resultsOf .fwL16 (ops 0x24600000 0x24600002 0x91A2B3C4 0x00200000 0)
      = ⟨some 0x24702460, some 0x002091A8, none, none, none⟩
    ∧ resultsOf .fwL16 { ops 0x24600000 0x24600002 0x91A2B3C4 0x00200000 0 with
        params := { Params.standard with filt16 := .sourceOrder } }
      = ⟨some 0x24612460, some 0x002091A2, none, none, none⟩ := by decide
/-- 95 V64, with and without FILTER_MASK_INVERT. -/
theorem test_fwM32 :
    resultsOf .fwM32 (ops 0x24600000 0x001FFFF8 0 0 0) = ⟨some 0x24600000, some 0x001FFFF8, none, none, none⟩
    ∧ resultsOf .fwM32 { ops 0x24600000 0x001FFFF8 0 0 0 with
        params := { Params.standard with filterMaskInvert := true } }
      = ⟨some 0x24600000, some 0xFFE00006, none, none, none⟩ := by decide
/-- 95 V66. -/
theorem test_fwM16 :
    resultsOf .fwM16 (ops 0x24600000 0x00000002 0x91A2B3C4 0x0000000C 0)
      = ⟨some 0x00102460, some 0x000891A8, none, none, none⟩ := by decide
/-- 95 V51, V56, in both layouts. -/
theorem test_fwEnc16 :
    resultsOf .fwEnc16 (ops 0x24600002 0 0 0 0) = ⟨some 0x2470, none, none, none, none⟩
    ∧ resultsOf .fwEnc16 { ops 0x001C0004 0 0 0 0 with params := { Params.standard with filt16 := .sourceOrder } }
      = ⟨some 0x001E, none, none, none, none⟩ := by decide
/-- 95 V52, V58. -/
theorem test_fwDec16 :
    resultsOf .fwDec16 (ops 0x91A8 0 0 0 0) = ⟨some 0x91A00004, none, none, none, none⟩
    ∧ resultsOf .fwDec16 (ops 0xFFFF 0 0 0 0) = ⟨some 0xFFFC0006, none, none, none, none⟩ := by decide

/-- 95 V70, V71. -/
theorem test_idEnc :
    resultsOf .idEnc (ops 0x24600009 0 0 0 0) = ⟨some 0x24600000, none, none, none, none⟩
    ∧ resultsOf .idEnc (ops 0x91A2B3C5 0 0 0 0) = ⟨some 0x91A2B3C4, none, none, none, none⟩ := by decide
/-- 95 V73. -/
theorem test_idDec : resultsOf .idDec (ops 0x2467FFF8 0 0 0 0) = ⟨some 0x24600000, none, none, none, none⟩ := by decide
/-- 95 V74, V75. -/
theorem test_idCmp :
    resultsOf .idCmp (ops 0x24600000 0x2460000C 0 0 0) = ⟨some 0, none, none, none, none⟩
    ∧ resultsOf .idCmp (ops 0x2460000C 0x24600000 0 0 0) = ⟨some 1, none, none, none, none⟩ := by decide
/-- 95 V79, V80. -/
theorem test_idCmpm :
    resultsOf .idCmpm (ops 0x24600000 0x24800000 0x00E00000 0 0) = ⟨some 1, none, none, none, none⟩
    ∧ resultsOf .idCmpm (ops 0x24600000 0x24800000 0x00600000 0 0) = ⟨some 0, none, none, none, none⟩ := by decide
/-- 46 R259 on the operands of 95 V82: EXT differs and is not masked, so the answer is 0 (log 17). -/
theorem test_idCmpm_v82 :
    resultsOf .idCmpm (ops 0x24600000 0x2460000C 0x00000004 0 0) = ⟨some 0, none, none, none, none⟩ := by decide
/-- 95 V84, V85. -/
theorem test_idCmps :
    resultsOf .idCmps (ops 0x2460000C 0x24600000 0 0 0) = ⟨some 1, none, none, none, none⟩
    ∧ resultsOf .idCmps (ops 0x24600000 0x24600002 0 0 0) = ⟨some 0, none, none, none, none⟩ := by decide
/-- 95 V86, V87. -/
theorem test_idCmpsm :
    resultsOf .idCmpsm (ops 0x24600000 0x24600002 0x00000002 0 0) = ⟨some 1, none, none, none, none⟩
    ∧ resultsOf .idCmpsm (ops 0x24600000 0x24800000 0x00E00000 0 0) = ⟨some 1, none, none, none, none⟩ := by decide
/-- 95 V102, V103. -/
theorem test_idMkstd :
    resultsOf .idMkstd (ops 0x7FF 1 0 0 0) = ⟨some 0xFFE00002, none, none, none, none⟩
    ∧ (after (exec .idMkstd (ops 0x800 0 0 0 0))).fault = some (.operandRange 1 0x800) := by decide
/-- 95 V105, V109. -/
theorem test_idMkext :
    resultsOf .idMkext (ops 0x12345678 1 0 0 0) = ⟨some 0x91A2B3C6, none, none, none, none⟩
    ∧ (after (exec .idMkext (ops 0 2 0 0 0))).fault = some (.operandRange 2 2) := by decide
/-- 95 V110, V111. -/
theorem test_idFields :
    resultsOf .idFields (ops 0x91A2B3C4 0 0 0 0) = ⟨some 0x48D, some 0x05678, some 1, some 0, some 0x12345678⟩
    ∧ resultsOf .idFields (ops 0x2460000A 0 0 0 0) = ⟨some 0x123, some 0, some 0, some 1, some 0x123⟩ := by decide

/-- 95 V88, V89: the last pending mailbox by identifier, and by request order under TXFP. -/
theorem test_txSelect_code :
    (∀ p d, allPending.code p d = 1) ∧ allPending.low 1 = true ∧ allPending.low 2 = false
    ∧ (∀ p d, { allPending with mcr := 0x00010004, reqOrder := [0, 1, 2] }.code p d = 2) := by
  refine ⟨fun p d => ?_, by decide, by decide, fun p d => ?_⟩ <;> rfl
/-- 95 V95. -/
theorem test_txSend_len : (after (exec (.txSend .primary) (ops 0x24600000 0 256 0 0))).fault
    = some (.operandRange 3 256) := by decide
/-- 95 V119. -/
theorem test_txReadback_unwritten : (after (exec (.txReadback .primary 0) State.reset)).fault
    = some (.unwrittenRead .primary 0x180) := by decide
/-- 95 V96, V114: the flags TX.STATUS reports after a completion, and after an abort. -/
theorem test_txStatus_flags :
    let x := (agentStep (with0 State.reset (onePending 0)) (.complete .primary 0 .ok)).mb .primary 0
    let y := (agentStep (with0 State.reset (normalRegs.setMb 0 { pendingBox with abrq := true }))
      (.abort .primary 0)).mb .primary 0
    (x.empty, x.rqcp, x.txok, x.alst, x.terr) = (true, true, true, false, false)
    ∧ (y.empty, y.rqcp, y.txok, y.alst, y.terr) = (true, true, false, false, false) := by decide

/-- 95 V122: an empty FIFO, RFOM stays 0. -/
theorem test_rxRead_empty : ((after (exec (.rxRead .primary 0 true) State.reset)).fifo .primary 0).rfom = false := by
  decide
/-- 95 V132: the MOBID of a standard frame with stray EXT bits; V124: the fields of an entry. -/
theorem test_rxRead_decode :
    decodeFrame 0x2467FFF8 0x00090402 0x0000BBAA 0 = ⟨some 0x24600000, some 0xBBAA, some 2, some 4, some 9⟩ := by decide
/-- 95 V131: the second request is absorbed. -/
theorem test_rxRelease :
    (after (exec (.rxRelease .primary 0)
      (with0 State.reset (withEntries 0 [entry 1, entry 2] false false true)))).fifo .primary 0
      = ⟨[entry 1, entry 2], false, false, true⟩ := by decide
/-- 95 V126, V128: the third delivery sets FULL, an overrun under RFLM discards the new entry. -/
theorem test_rxCount_full :
    ((agentStep (with0 State.reset (withEntries 0 [entry 1, entry 2] false false false))
      (.deliver .primary 0 (entry 3))).fifo .primary 0) = ⟨[entry 1, entry 2, entry 3], true, false, false⟩
    ∧ ((agentStep (with0 State.reset
        { withEntries 0 [entry 1, entry 2, entry 3] true false false with mcr := 0x00010008 })
      (.deliver .primary 0 (entry 4))).fifo .primary 0) = ⟨[entry 1, entry 2, entry 3], true, true, false⟩ := by decide

/-- 95 V139, V140. -/
theorem test_irqPend :
    resultsOf (.irqPend .primary) (ops 0 0 0 0 0) = ⟨some 0, some 0, none, none, none⟩
    ∧ (after (exec (.irqPend .primary) (ops 0x80 0 0 0 0))).fault = some (.operandRange 1 0x80) := by decide
/-- 95 V137, V142: what is written back. -/
theorem test_irqClr :
    IrqSource.rf0r.clearWord 0x0000000E 0x0000000B = 0x00000008
    ∧ orBits (IrqSource.rf0r.hits 0x0000000E 0x0000000B) = 0x00000006
    ∧ IrqSource.msr.clearWord 0x00030000 0x00000010 = 0x00000010
    ∧ IrqSource.esr.clearWord 0x00000400 0x00000004 = 0 := by decide

/-! ### Witnesses: a concrete state and operands for the hypotheses of each obligation, clause by clause -/

/-- A state with a scheduled event. -/
def scheduled (e : Event) : State := { State.reset with agenda := [e] }

/-- TSR.CODE under LowestIndex. -/
def lowestIndex (s : State) : State := { s with params := { Params.standard with codePolicy := .lowestIndex } }

theorem witness_DecodeEncodeAgree : (Instr.txReadback .secondary 2).wf = true
    ∧ (Instr.rxRead .primary 1 true).wf = true ∧ Instr.btSynth.wf = true := by decide

theorem witness_DecodeReadsFields : decode 0x00000A50 = .ok (.rxRead .primary 1 true)
    ∧ decode 0x00000542 = .ok (.txReadback .secondary 2) := by decide

/-- No legal command has the word of TX.READBACK with IDX = 3. -/
theorem witness_IllegalWordsFault : State.reset.fault = none
    ∧ (scheduled (.command 0x00000642 Operands.zero)).agenda = .command 0x00000642 Operands.zero :: []
    ∧ ∀ i : Instr, i.wf = true → encode i ≠ 0x00000642 := by
  refine ⟨rfl, rfl, fun i => ?_⟩
  cases i with
  | txReadback c idx => cases c <;> revert idx <;> decide
  | txStatus c idx => cases c <;> revert idx <;> decide
  | rxRead c idx rel => cases c <;> cases rel <;> revert idx <;> decide
  | rxRelease c idx => cases c <;> revert idx <;> decide
  | rxCount c idx => cases c <;> revert idx <;> decide
  | _ => first | decide | (rename_i c; cases c <;> decide)

theorem witness_StepRunsDecodedCommand : State.reset.fault = none
    ∧ (scheduled (.command 0x00000161 Operands.zero)).agenda = .command 0x00000161 Operands.zero :: []
    ∧ decode 0x00000161 = .ok (.irqClr .secondary) := by decide

theorem witness_StepRunsOtherEvents : State.reset.agenda = []
    ∧ (scheduled (.reset .secondary)).agenda = .reset .secondary :: []
    ∧ (scheduled (.agent (.wake .primary))).agenda = .agent (.wake .primary) :: []
    ∧ (scheduled (.reset .secondary)).fault = none := by decide

theorem witness_FaultStopsMachine : { State.reset with fault := some (.divZero 0) }.fault = some (.divZero 0) := rfl

theorem witness_CommandsAlwaysAnswer : State.reset.fault = none
    ∧ (after (exec .btFreq State.reset)).fault = some (.divZero 0) := by decide

/-- The last slot of BT.FREQ, and the second of ID.MKSTD, at the first value that does not fit. -/
theorem witness_OperandRangeFaultsFirst :
    (∀ j, ∀ hj : j < 4, (ops 1 2 3 4 (2 ^ 32)).ops.slot (j + 1)
      < 2 ^ (slotWidths .btFreq)[j]'(Nat.lt_trans hj (by decide)))
    ∧ ¬ (ops 1 2 3 4 (2 ^ 32)).ops.slot 5 < 2 ^ (slotWidths .btFreq)[4]
    ∧ (ops 2047 2 0 0 0).ops.slot 1 < 2 ^ (slotWidths .idMkstd)[0]
    ∧ ¬ (ops 2047 2 0 0 0).ops.slot 2 < 2 ^ (slotWidths .idMkstd)[1] := by decide

theorem witness_StepKeepsInvariant : State.reset.inv ∧ step State.reset = .next State.reset
    ∧ (scheduled (.reset .primary)).inv
    ∧ step (scheduled (.reset .primary)) = .next (hostReset .primary State.reset) :=
  ⟨⟨by decide, by decide, by decide⟩, rfl, ⟨by decide, by decide, by decide⟩, rfl⟩

theorem witness_InstanceResets :
    (scheduled (.reset .primary)).fault = none ∧ (scheduled (.reset .primary)).agenda = .reset .primary :: []
    ∧ Ready (.regWr .primary) (with0 (ops 0 0x0001807F 0 0 0) initRegs)
    ∧ ((with0 (ops 0 0x0001807F 0 0 0) initRegs).ctl .primary).msr.inak = true
    ∧ (word (ops 0 0x0001807F 0 0 0) 2).getLsbD 15 = true
    ∧ Ready (.regWr .secondary) (ops 0 0x00018002 0 0 0) ∧ (word (ops 0 0x00018002 0 0 0) 2).getLsbD 15 = true
    ∧ word (ops 0 0x00018002 0 0 0) 2 &&& 0x000100FC
      = ((ops 0 0x00018002 0 0 0).ctl .secondary).mcr &&& 0x000100FC := by decide

/-- The last filter register of instance 0, written; a control register of instance 1; FIFO 1 showing an entry. -/
theorem witness_RegRdReadsRegister :
    (let s := { ops 0x31C 0 0 0 0 with filters := Filters.reset.setBank 27 ⟨0, 7, false, true⟩ };
      s.fault = none ∧ Has .primary (.fr2 27) ∧ Specified s .primary (.fr2 27) ∧ s.ops.x1 = (Reg.fr2 27).offset)
    ∧ (Has .secondary .mcr ∧ Specified (ops 0 0 0 0 0) .secondary .mcr ∧ (ops 0 0 0 0 0).ops.x1 = Reg.mcr.offset)
    ∧ Shows ((with0 (ops 0x1CC 0 0 0 0) (withEntries 1 [entry 1] false false false)).fifo .primary 1) (entry 1) := by
  refine ⟨⟨rfl, fun _ => rfl, ?_, rfl⟩, ⟨by simp [Reg.isFilter], trivial, rfl⟩, by decide⟩
  show Bank.wrote2 _ = true
  decide

theorem witness_RegRdUnwrittenFaults :
    (Has .primary (.fr1 0) ∧ ¬ Specified (ops 0x240 0 0 0 0) .primary (.fr1 0)
      ∧ (ops 0x240 0 0 0 0).ops.x1 = (Reg.fr1 0).offset ∧ Ready (.regRd .primary) (ops 0x240 0 0 0 0))
    ∧ (Has .secondary (.tdh 2) ∧ ¬ Specified (ops 0x1AC 1 2 0 0) .secondary (.tdh 2)
      ∧ (ops 0x1AC 1 2 0 0).ops.x1 = (Reg.tdh 2).offset ∧ Ready (.regRmw .secondary) (ops 0x1AC 1 2 0 0)) := by
  refine ⟨⟨fun _ => rfl, ?_, rfl, by decide⟩, ⟨by simp [Reg.isFilter], ?_, rfl, by decide⟩⟩ <;>
    simp only [Specified] <;> decide

theorem witness_UnmappedOffsetFaults :
    (Ready (.regRd .primary) (ops 0x1D0 0 0 0 0) ∧ ¬ Mapped .primary 0x1D0)
    ∧ (Ready (.regRmw .secondary) (ops 0x200 0 0 0 0) ∧ ¬ Mapped .secondary 0x200)
    ∧ (Ready (.regRd .primary) (ops 0x002 0 0 0 0) ∧ ¬ Mapped .primary 0x002)
    ∧ (Ready (.regWr .primary) (ops 0x31C 0 0 0 0) ∧ Mapped .primary 0x31C)
    ∧ (Ready (.regRd .secondary) (ops 0x1CC 0 0 0 0) ∧ Mapped .secondary 0x1CC) ∧ 2 ≠ 4 := by decide

theorem witness_RegWrMcr :
    (let s := with0 (ops 0 0x000100FD 0 0 0) initRegs;
      Ready (.regWr .primary) s ∧ (s.ctl .primary).msr.inak = true ∧ (word s 2).getLsbD 15 = false)
    ∧ (let s := with0 (ops 0 0x000180FD 0 0 0) initRegs;
      Ready (.regWr .primary) s ∧ (s.ctl .primary).msr.inak = true ∧ (word s 2).getLsbD 15 = true)
    ∧ (let s := with0 (ops 0 0x00010001 0 0 0) normalRegs;
      Ready (.regWr .primary) s ∧ word s 2 &&& 0x000100FC = (s.ctl .primary).mcr &&& 0x000100FC
        ∧ (word s 2).getLsbD 15 = false)
    ∧ (let s := with0 (ops 0 0x00010010 0 0 0) normalRegs;
      Ready (.regWr .primary) s ∧ (s.ctl .primary).msr.inak = false
        ∧ word s 2 &&& 0x000100FC ≠ (s.ctl .primary).mcr &&& 0x000100FC) := by decide

theorem witness_RegWrMsrIerEsr :
    Ready (.regWr .secondary) (ops 0x004 0x1C 0 0 0) ∧ (ops 0x004 0x1C 0 0 0).ops.x1 = 0x004
    ∧ Ready (.regWr .secondary) (ops 0x014 (2 ^ 32 - 1) 0 0 0) ∧ (ops 0x014 (2 ^ 32 - 1) 0 0 0).ops.x1 = 0x014
    ∧ Ready (.regWr .secondary) (ops 0x018 0x70 0 0 0) ∧ (ops 0x018 0x70 0 0 0).ops.x1 = 0x018 := by decide

theorem witness_RegWrTsr : Ready (.regWr .primary) (with0 (ops 0x008 0x00000080 0 0 0) (onePending 0))
    ∧ (with0 (ops 0x008 0x00000080 0 0 0) (onePending 0)).ops.x1 = 0x008 := by decide

theorem witness_RegWrFifo :
    Ready (.regWr .primary) (ops 0x010 0x38 0 0 0) ∧ (ops 0x010 0x38 0 0 0).ops.x1 = 0x00C + 4 * (1 : Fin 2).val
    ∧ Ready (.regWr .primary) (ops 0x1B0 0 0 0 0) ∧ Ready (.regWr .primary) (ops 0x1CC 0 0 0 0)
    ∧ 0x1B0 ≤ (ops 0x1CC 0 0 0 0).ops.x1 ∧ (ops 0x1CC 0 0 0 0).ops.x1 ≤ 0x1CC
    ∧ (ops 0x1CC 0 0 0 0).ops.x1 % 4 = 0 := by decide

theorem witness_RegWrBtr :
    (let s := with0 (ops 0x01C 0xC37F03FF 0 0 0) initRegs;
      Ready (.regWr .primary) s ∧ s.ops.x1 = 0x01C ∧ (s.ctl .primary).msr.inak = true ∧ s.params.brpBits = 10)
    ∧ (let s := with0 (ops 0x01C 0x01230000 0 0 0) normalRegs;
      Ready (.regWr .primary) s ∧ word s 2 &&& btrMask s.params = (s.ctl .primary).btr &&& btrMask s.params)
    ∧ (let s := with0 (ops 0x01C 0x02290005 0 0 0) normalRegs;
      Ready (.regWr .primary) s ∧ (s.ctl .primary).msr.inak = false
        ∧ word s 2 &&& btrMask s.params ≠ (s.ctl .primary).btr &&& btrMask s.params) := by decide

/-- Mailbox 2: pending; no request; DLC unwritten; the low and the high word missing at the lengths that first need
them; a frame of no bytes, and one of eight. -/
theorem witness_RegWrTi :
    (let s := with0 (ops 0x1A0 1 0 0 0) (onePending 2);
      Ready (.regWr .primary) s ∧ s.ops.x1 = 0x180 + 0x10 * (2 : Fin 3).val ∧ (s.mb .primary 2).txrq = true)
    ∧ (let s := ops 0x1A0 2 0 0 0;
      Ready (.regWr .primary) s ∧ (s.mb .primary 2).txrq = false ∧ (word s 2).getLsbD 0 = false)
    ∧ (let s := ops 0x1A0 1 0 0 0;
      (word s 2).getLsbD 0 = true ∧ (s.mb .primary 2).wroteTdt = false)
    ∧ (let x := { fullBox with dlc := 1, wroteTdl := false };
      x.wroteTdt = true ∧ 0 < min x.dlc.toNat 8 ∧ x.wroteTdl = false)
    ∧ (let x := { fullBox with dlc := 5, wroteTdh := false };
      x.wroteTdt = true ∧ ¬ (0 < min x.dlc.toNat 8 ∧ x.wroteTdl = false) ∧ 4 < min x.dlc.toNat 8
        ∧ x.wroteTdh = false)
    ∧ (let x := { Mailbox.reset with wroteTdt := true };
      x.txrq = false ∧ ¬ (0 < min x.dlc.toNat 8 ∧ x.wroteTdl = false)
        ∧ ¬ (4 < min x.dlc.toNat 8 ∧ x.wroteTdh = false))
    ∧ (¬ (0 < min fullBox.dlc.toNat 8 ∧ fullBox.wroteTdl = false)
        ∧ ¬ (4 < min fullBox.dlc.toNat 8 ∧ fullBox.wroteTdh = false)) := by decide

theorem witness_RegWrMailboxData :
    (let s := with0 (ops 0x19C 1 0 0 0) (onePending 1);
      Ready (.regWr .primary) s ∧ s.ops.x1 = 0x18C + 0x10 * (1 : Fin 3).val ∧ (s.mb .primary 1).txrq = true)
    ∧ (let s := ops 0x184 0xFFFFFFFF 0 0 0;
      Ready (.regWr .primary) s ∧ s.ops.x1 = 0x184 + 0x10 * (0 : Fin 3).val ∧ (s.mb .primary 0).txrq = false)
    ∧ (ops 0x1A8 0 0 0 0).ops.x1 = 0x188 + 0x10 * (2 : Fin 3).val
    ∧ (ops 0x1AC 0 0 0 0).ops.x1 = 0x18C + 0x10 * (2 : Fin 3).val := by decide

/-- FINIT = 0; FINIT = 1 with bank 0 active; and the offsets of each clause. -/
theorem witness_RegWrFilters :
    (let x := { Filters.reset with fmr := 0x00000E00 };
      x.fmr.getLsbD 0 = false)
    ∧ (let x := { Filters.reset with fa1r := 1 };
      x.fmr.getLsbD 0 = true ∧ x.fa1r.getLsbD (0 : Fin 28).val = true ∧ x.fa1r.getLsbD (27 : Fin 28).val = false
        ∧ ((1 : Word) ^^^ x.fs1r) &&& 0x0FFFFFFF &&& x.fa1r ≠ 0 ∧ ((2 : Word) ^^^ x.fs1r) &&& 0x0FFFFFFF &&& x.fa1r = 0)
    ∧ (∀ off ∈ [0x200, 0x204, 0x20C, 0x214, 0x21C, 0x240 + 8 * (0 : Fin 28).val, 0x244 + 8 * (27 : Fin 28).val],
      Ready (.regWr .primary) (ops off 0x0FFFFFFF 0 0 0))
    ∧ Ready (.regWr .secondary) (ops 0x200 0 0 0 0) ∧ 0x200 ≤ (ops 0x200 0 0 0 0).ops.x1 := by decide

theorem witness_RegRmwIsReadThenWrite :
    let s := with0 (ops 0x188 0x0000000F 0x00000100 0 0) (Ctrl.reset.setMb 0 fullBox)
    Ready (.regRmw .primary) s ∧ s.quiet
      ∧ ∃ t, exec (.regRd .primary) s = .next t ∧ t.res.x1 = some 0x04030201 ∧ t.fault = none :=
  ⟨by decide, rfl, _, rfl, rfl, rfl⟩

theorem witness_RegRmwIer : Ready (.regRmw .secondary) (ops 0x014 (2 ^ 32 - 1) 0x00038F7F 0 0)
    ∧ (ops 0x014 (2 ^ 32 - 1) 0x00038F7F 0 0).ops.x1 = 0x014 ∧ (ops 0x014 (2 ^ 32 - 1) 0x00038F7F 0 0).quiet
    ∧ (let s := { with0 (ops 0x014 0 0 0 0) normalRegs with gaps := [[.deliver .primary 1 (entry 7)]] };
      Ready (.regRmw .primary) s ∧ s.ops.x1 = 0x014
        ∧ ((runGap (s.advance 2)).fifo .primary 1).q = [entry 7] ∧ (s.fifo .primary 1).q = []) := by decide

/-- 95 V1 stops at split 6; V13 finds none. -/
theorem witness_BtSynthSearch :
    Ready .btSynth (ops 42000000 500000 192 0 0) ∧ SynthStops 84 192 6
    ∧ (let p := synthSplit 192 6;
      1 ≤ 84 / (1 + p.1 + p.2) ∧ 84 / (1 + p.1 + p.2) ≤ 512)
    ∧ Ready .btSynth (ops 42000000 0 255 0 0) ∧ (ops 42000000 0 255 0 0).ops.x2 = 0 := by decide

theorem witness_BtFreq : Ready .btFreq (ops 42000000 1024 16 8 4) ∧ (ops 42000000 1024 16 8 4).ops.x2 ≠ 0
    ∧ Ready .btFreq (ops 42000000 0 16 8 4) ∧ (ops 42000000 0 16 8 4).ops.x2 = 0 := by decide

theorem witness_BtApplyWritesDescriptor :
    (let s := with0 (ops 512 16 8 4 0) initRegs;
      Ready (.btApply .primary) s ∧ s.params.wf = true ∧ ((runGap (s.advance 2)).ctl .primary).msr.inak = true ∧ s.quiet
        ∧ (1 ≤ s.ops.x1 ∧ s.ops.x1 ≤ 512 ∧ 1 ≤ s.ops.x2 ∧ s.ops.x2 ≤ 16 ∧ 1 ≤ s.ops.x3 ∧ s.ops.x3 ≤ 8 ∧ 1 ≤ s.ops.x4
          ∧ s.ops.x4 ≤ 4 ∧ s.ops.x4 ≤ s.ops.x3))
    ∧ (let s := with0 (ops 6 10 3 4 0) initRegs;
      Ready (.btApply .primary) s ∧ ¬ s.ops.x4 ≤ s.ops.x3) := by decide

theorem witness_BtApplyOutsideInit :
    (let s := with0 (ops 1 4 3 2 0) normalRegs;
      Ready (.btApply .primary) s ∧ s.params.wf = true ∧ s.quiet ∧ s.inv ∧ (s.ctl .primary).msr.inak = false
        ∧ Desc.legal ⟨1, 4, 3, 2⟩ = true ∧ descOf s.params (s.ctl .primary).btr = ⟨1, 4, 3, 2⟩)
    ∧ (let s := with0 (ops 6 10 3 3 0) normalRegs;
      Ready (.btApply .primary) s ∧ s.inv ∧ Desc.legal ⟨6, 10, 3, 3⟩ = true
        ∧ descOf s.params (s.ctl .primary).btr ≠ ⟨6, 10, 3, 3⟩) := by
  refine ⟨⟨by decide, by decide, by decide, ⟨by decide, by decide, by decide⟩, by decide, by decide, by decide⟩,
    by decide, ⟨by decide, by decide, by decide⟩, by decide, by decide⟩

theorem witness_BtReadAndClear :
    ((with0 State.reset initRegs).ctl .primary).msr.inak = true
    ∧ (let s := with0 State.reset { normalRegs with btr := 0 };
      (s.ctl .primary).btr &&& btrMask s.params = 0)
    ∧ (let s := with0 State.reset normalRegs;
      (s.ctl .primary).msr.inak = false ∧ (s.ctl .primary).btr &&& btrMask s.params ≠ 0) := by decide

set_option maxRecDepth 8000 in
theorem witness_TimingRoundTrips :
    (let s := with0 (ops 512 16 8 4 0) initRegs;
      Ready (.btApply .primary) s ∧ s.params.wf = true ∧ ∃ t, exec (.btApply .primary) s = .next t ∧ t.fault = none)
    ∧ (let s := ops 42000000 500000 192 0 0;
      Ready .btSynth s ∧ ∃ t, exec .btSynth s = .next t ∧ t.res = ⟨some 1, some 6, some 10, some 3, some 3⟩)
    ∧ 500000 ∣ 42000000 :=
  ⟨⟨by decide, by decide, _, rfl, rfl⟩, ⟨by decide, _, rfl, by decide⟩, by decide⟩

theorem witness_FwCompactForms : Ready .fwEnc16 (ops (2 ^ 32 - 1) 0 0 0 0) ∧ Ready .fwDec16 (ops (2 ^ 16 - 1) 0 0 0 0) := by
  decide

/-- With a mask whose IDE bit is 0 and whose EXT bits are set in slot 2: BxCAN keeps EXT[17:15] in bits 2:0, SourceOrder
in bits 4:2, an inverted mask clears them (30 R105, 42 R175). -/
theorem witness_FwWords : (∀ i ∈ [Instr.fwL32, .fwM32, .fwL16, .fwM16],
    Ready i (ops (2 ^ 32 - 1) 0x001FFFF8 (2 ^ 32 - 1) 5 0))
    ∧ compactMask Params.standard 0x001FFFF8 = 0x0007
    ∧ compactMask { Params.standard with filt16 := .sourceOrder } 0x001FFFF8 = 0x001C
    ∧ compactMask { Params.standard with filterMaskInvert := true } 0x001FFFF8 = 0xFFF8
    ∧ compactId .bxCan 0x001FFFF8 = 0 := by decide

theorem witness_FilterRoundTrip :
    (let s := ops 0x91A2B3C4 0 0 0 0;
      Ready .fwEnc16 s ∧ ∃ t, exec .fwEnc16 s = .next t ∧ t.res.x1 = some 0x91A8)
    ∧ (let s := ops 0x24600001 7 0 0 0;
      Ready .fwL32 s ∧ ∃ t, exec .fwL32 s = .next t ∧ t.res.x1 = some 0x24600000) :=
  ⟨⟨by decide, _, rfl, by decide⟩, ⟨by decide, _, rfl, by decide⟩⟩

theorem witness_IdEncDec : Ready .idEnc (ops (2 ^ 32 - 1) 0 0 0 0) ∧ Ready .idDec (ops (2 ^ 32 - 1) 0 0 0 0) := by decide

/-- Both answers, with a standard and with an extended second operand. -/
theorem witness_IdComparisons :
    (∀ i ∈ [Instr.idCmp, .idCmps, .idCmpm, .idCmpsm], Ready i (ops 0x24600000 0x2460000C (2 ^ 32 - 1) 0 0))
    ∧ (let s := ops 0x24600000 0x2460000C 0 0 0;
      (word s 1).extractLsb' 21 11 = (word s 2).extractLsb' 21 11 ∧ (word s 2).getLsbD 2 = true
        ∧ (word s 1).getLsbD 2 ≠ (word s 2).getLsbD 2)
    ∧ (let s := ops 0x24600000 0x24600002 0 0 0;
      (word s 2).getLsbD 2 = false ∧ (word s 1).getLsbD 1 ≠ (word s 2).getLsbD 1) := by decide

theorem witness_IdCompareAsymmetry :
    let s := ops 0x2460000C 0x24600000 0 0 0
    Ready .idCmp s ∧ (word s 1).getLsbD 2 = true ∧ (word s 2).getLsbD 2 = false
      ∧ (word s 1).extractLsb' 21 11 = (word s 2).extractLsb' 21 11 ∧ (word s 1).getLsbD 1 = (word s 2).getLsbD 1 := by
  decide

theorem witness_IdBuildAndSplit :
    Ready .idMkstd (ops 0x7FF 1 0 0 0) ∧ Ready .idMkext (ops 0x1FFFFFFF 1 0 0 0)
    ∧ Ready .idFields (ops 0x91A2B3C4 0 0 0 0) ∧ (word (ops 0x91A2B3C4 0 0 0 0) 1).getLsbD 2 = true
    ∧ (word (ops 0x2460000A 0 0 0 0) 1).getLsbD 2 = false := by decide

theorem witness_IdFieldsRoundTrip :
    (let s := ops 0x7FF 1 0 0 0;
      Ready .idMkstd s ∧ ∃ t, exec .idMkstd s = .next t ∧ t.res.x1 = some 0xFFE00002)
    ∧ (let s := ops 0x1FFFFFFF 1 0 0 0;
      Ready .idMkext s ∧ ∃ t, exec .idMkext s = .next t ∧ t.res.x1 = some 0xFFFFFFFE) :=
  ⟨⟨by decide, _, rfl, by decide⟩, ⟨by decide, _, rfl, by decide⟩⟩

theorem witness_LowestPriorityIsLast : (with0 State.reset allPending).inv
    ∧ ((with0 State.reset allPending).mb .primary 2).txrq = true ∧ (with0 State.reset (onePending 2)).inv
    ∧ ((with0 State.reset (onePending 2)).mb .primary 2).txrq = true :=
  ⟨⟨by decide, by decide, by decide⟩, by decide, ⟨by decide, by decide, by decide⟩, by decide⟩

theorem witness_TxSelectAndStatus :
    (∀ m, ((with0 State.reset allPending).mb .primary m).txrq = true)
    ∧ ((lowestIndex (with0 State.reset (onePending 0))).mb .primary 1).txrq = false
    ∧ (lowestIndex (with0 State.reset (onePending 0))).params.codePolicy = .lowestIndex := by decide

theorem witness_TxSendWritesFrame :
    let s := lowestIndex (with0 (ops 0x24600009 (2 ^ 64 - 1) 255 0 0) (onePending 0))
    Ready (.txSend .primary) s ∧ (s.mb .primary 2).txrq = false ∧ s.params.codePolicy = .lowestIndex := by decide

/-- TX.SEND from reset, eight bytes: it completes in the mailbox CODE named. -/
theorem txSend_reset : let s := ops 0x24600009 0x0807060504030201 8 0 0
    ∃ (t : State) (m : Fin 3), exec (.txSend .primary) s = .next t ∧ t.fault = none ∧ t.res.x1 = some m.val := by
  intro s
  have hempty : ∀ m, ((s.advance 2).mb .primary m).txrq = false := by decide
  have hnone := tsrNoneEmpty_read (s.ctl .primary) s.params (Config.draw (s.draws + 1)) (Config.draw s.draws)
  have hcode := tsrCode_read (s.ctl .primary) s.params (Config.draw (s.draws + 1)) (Config.draw s.draws)
  generalize hv : overlay tsrMask _ _ = v at hnone hcode
  have hr : readAt .primary .tsr s = .ok v (s.advance 2) := readAt_ok (by rw [← hv]; rfl)
  have hn : tsrNoneEmpty v = false := by
    cases hb : tsrNoneEmpty v
    · rfl
    · exact absurd (hnone.mp hb 0) (by decide)
  generalize (s.ctl .primary).code s.params (Config.draw (s.draws + 1)) = m at hcode
  obtain ⟨t, d, ht, hs, -, -⟩ := sendInto_ok .primary m (BitVec.ofNat 32 (s.ops.slot 1)) (BitVec.ofNat 64 (s.ops.slot 2))
    (BitVec.ofNat 4 (s.ops.slot 3)) (s.advance 2) (hempty m)
  refine ⟨t.setRes (Results.one m.val), m, ?_, hs.fault, rfl⟩
  refine command_ok (s := s) rfl ?_
  rw [Cmd.bind_ok (operandWord_ok (by decide)), Cmd.bind_ok (operand_ok (by decide)),
    Cmd.bind_ok (operand_ok (by decide)), memRead_tsr, Cmd.bind_ok hr, if_neg (by rw [hn]; decide), hcode,
    Cmd.bind_ok ht]
  rfl

theorem witness_TxSendFrameOnly :
    (let s := ops 0x24600009 0x0807060504030201 8 0 0;
      s.quiet ∧ ∃ (t : State) (m : Fin 3), exec (.txSend .primary) s = .next t ∧ t.fault = none
        ∧ t.res.x1 = some m.val)
    ∧ ((with0 State.reset (onePending 1)).mb .primary 1).txrq = true := ⟨⟨rfl, txSend_reset⟩, by decide⟩

theorem witness_TxSendExhausted : Ready (.txSend .primary) (with0 (ops 0x24600000 0 8 0 0) allPending)
    ∧ ∀ m, ((with0 (ops 0x24600000 0 8 0 0) allPending).mb .primary m).txrq = true := by decide

theorem witness_TxReadback :
    (let s := with0 State.reset (normalRegs.setMb 2 { fullBox with time := some 9 });
      s.fault = none ∧ s.quiet ∧ (s.mb .primary 2).wroteTi = true ∧ (s.mb .primary 2).wroteTdt = true
        ∧ (s.mb .primary 2).wroteTdl = true ∧ (s.mb .primary 2).wroteTdh = true ∧ (s.mb .primary 2).time = some 9)
    ∧ (let x := (with0 State.reset (normalRegs.setMb 0 { fullBox with wroteTdh := false })).mb .primary 0;
      x.wroteTi = true ∧ x.wroteTdt = true ∧ x.wroteTdl = true ∧ x.wroteTdh = false)
    ∧ (let x := (with0 State.reset (normalRegs.setMb 1 { fullBox with wroteTdl := false })).mb .primary 1;
      x.wroteTi = true ∧ x.wroteTdt = true ∧ x.wroteTdl = false)
    ∧ (let x := (with0 State.reset (normalRegs.setMb 2 { fullBox with wroteTdt := false })).mb .primary 2;
      x.wroteTi = true ∧ x.wroteTdt = false)
    ∧ (State.reset.mb .secondary 2).wroteTi = false := by decide

theorem witness_PayloadRoundTrip : let s := ops 0x24600009 0x0807060504030201 8 0 0
    Ready (.txSend .primary) s ∧ s.ops.x3 = 8
      ∧ ∃ (t : State) (m : Fin 3), exec (.txSend .primary) s = .next t ∧ t.res.x1 = some m.val := by
  refine ⟨by decide, rfl, ?_⟩
  obtain ⟨t, m, h1, -, h3⟩ := txSend_reset
  exact ⟨t, m, h1, h3⟩

theorem witness_RxReadHead :
    let s := with0 State.reset (withEntries 1 [entry 1, entry 2] false false false)
    s.fault = none ∧ Shows (s.fifo .primary 1) (entry 1) := by decide

theorem witness_RxReadChangesRfomOnly : State.reset.fault = none ∧ State.reset.quiet
    ∧ (with0 State.reset (withEntries 1 [entry 1] false false false)).quiet := by decide

theorem witness_RxReleaseAndCount : (with0 State.reset (withEntries 0 [entry 1, entry 2, entry 3] true true true)).fault
    = none := rfl

/-- Every condition bit asked for, on a state in which some hold; and a bit outside IRQMASK. -/
theorem witness_IrqPend :
    (let s := with0 (ops 0x00038F7F 0 0 0 0) { (withEntries 0 [entry 1, entry 2, entry 3] true false false) with
        esr := 4 };
      s.fault = none ∧ MaskOk s ∧ s.quiet ∧ s.inv ∧ (s.fifo .primary 0).full = true
        ∧ (s.ctl .primary).esr.getLsbD 2 = true)
    ∧ (ops 0x80 0 0 0 0).ops.x1 < 2 ^ 32 ∧ ¬ MaskOk (ops 0x80 0 0 0 0) := by
  refine ⟨⟨by decide, by decide, by decide, ⟨by decide, by decide, by decide⟩, by decide, by decide⟩, by decide,
    by decide⟩

theorem witness_IrqClr :
    (let s := with0 (ops 0x00038F7F 0 0 0 0)
        (normalRegs.setMb 0 { fullBox with rqcp := true, txok := true });
      s.fault = none ∧ MaskOk s ∧ s.quiet ∧ s.inv ∧ (s.mb .primary 0).rqcp = true)
    ∧ (ops 0xFFFFFFFF 0 0 0 0).ops.x1 < 2 ^ 32 ∧ ¬ MaskOk (ops 0xFFFFFFFF 0 0 0 0) := by
  refine ⟨⟨by decide, by decide, by decide, ⟨by decide, by decide, by decide⟩, by decide⟩, by decide, by decide⟩

/-- Every group asked for, mailbox 0 complete at the read of TSR and mailbox 1 completing between that read and its write;
the empty mask; a mask whose register shows no flag asked for, so that there is no write. -/
theorem witness_IrqInterleaved :
    (let s := { with0 (ops 0x00038F7F 0 0 0 0) ((onePending 1).setMb 0 { fullBox with rqcp := true, txok := true }) with
        gaps := [[.complete .primary 1 .ok]] };
      s.fault = none ∧ MaskOk s ∧ s.inv ∧ (s.mb .primary 0).rqcp = true ∧ (s.mb .primary 1).rqcp = false
        ∧ ((runGap (s.advance 2)).mb .primary 1).rqcp = true ∧ (irqGroupsOf (word s 1)).length = 5)
    ∧ (let s := ops 0 0 0 0 0; s.fault = none ∧ MaskOk s ∧ s.inv ∧ irqGroupsOf (word s 1) = [])
    ∧ (let s := ops 0x00000F00 0 0 0 0; s.fault = none ∧ MaskOk s ∧ s.inv ∧ irqGroupsOf (word s 1) = [[8, 9, 10, 11]]) := by
  refine ⟨⟨by decide, by decide, ⟨by decide, by decide, by decide⟩, by decide, by decide, by decide, by decide⟩,
    ⟨by decide, by decide, ⟨by decide, by decide, by decide⟩, by decide⟩,
    by decide, by decide, ⟨by decide, by decide, by decide⟩, by decide⟩

/-- COMPLETE in Normal mode with OK, and under NART with TERR; RETRY; ABORT; and each disabled. -/
theorem witness_TxeSteps :
    (let r := onePending 0;
      (r.mb 0).txrq = true ∧ r.msr.inak = false ∧ r.msr.slak = false ∧ Params.standard.txOrder = .any
        ∧ r.mcr.getLsbD 4 = false)
    ∧ (let r := { onePending 0 with mcr := 0x00010010 };
      r.mcr.getLsbD 4 = true)
    ∧ (let x := { pendingBox with abrq := true };
      x.abrq = true ∧ x.txrq = true)
    ∧ (let r := { onePending 0 with mcr := 0x00010080 };
      r.mcr.getLsbD 7 = true ∧ { pendingBox with tgt := true }.tgt = true ∧ pendingBox.dlc = 8)
    ∧ (∀ q, (allPending.mb q).txrq = true → q ≠ 2 → SentBefore allPending 2 q)
    ∧ Ctrl.reset.msr.slak = true ∧ (Ctrl.reset.mb 0).txrq = false := by decide

theorem witness_RxeSteps :
    (entry 1).rir.getLsbD 0 = false ∧ normalRegs.msr.inak = false ∧ normalRegs.msr.slak = false
    ∧ ((withEntries 1 [] false false false).fifo 1).q.length < 2
    ∧ ((withEntries 1 [entry 1, entry 2] false false false).fifo 1).q.length = 2
    ∧ ((withEntries 1 [entry 1, entry 2, entry 3] true false false).fifo 1).q.length = 3
    ∧ (withEntries 1 [entry 1, entry 2, entry 3] true false false).mcr.getLsbD 3 = false
    ∧ ({ normalRegs with mcr := 0x00010008 } : Ctrl).mcr.getLsbD 3 = true
    ∧ ((withEntries 0 [entry 1] false false true).fifo 0).rfom = true
    ∧ ((withEntries 0 [entry 1] false false true).fifo 0).q.head? = some (entry 1)
    ∧ initRegs.msr.inak = true := by decide

theorem witness_EnvSteps :
    (Ctrl.reset.msr.inak = Ctrl.reset.mcr.getLsbD 0
      ∧ Ctrl.reset.msr.slak = (!Ctrl.reset.mcr.getLsbD 0 && Ctrl.reset.mcr.getLsbD 1))
    ∧ initRegs.msr.inak = true ∧ normalRegs.msr.slak = false
    ∧ (Ctrl.reset.msr.inak = false ∧ Ctrl.reset.msr.slak = true) := by decide

theorem witness_AgentStepFrame : (State.reset.mb .primary 0).txrq = false
    ∧ Ctl.secondary ≠ (AgentStep.wake .primary).owner := by decide

theorem witness_NonWritingCommandsFrame :
    isPure .idEnc = true ∧ (∃ t, exec .idEnc State.reset = .next t)
    ∧ onlyReads (.rxRead .primary 1 false) = true ∧ State.reset.quiet
    ∧ ∃ t, exec (.rxRead .primary 1 false) State.reset = .next t :=
  ⟨rfl, ⟨_, rfl⟩, rfl, rfl, _, rfl⟩

theorem witness_InstanceIsolation :
    State.reset.quiet ∧ (∃ t, exec (.btClear .secondary) State.reset = .next t)
    ∧ Ctl.primary ≠ (Instr.btClear .secondary).instField ∧ mayWriteFilters (.btClear .secondary) = false :=
  ⟨rfl, ⟨_, rfl⟩, by decide, rfl⟩

end Sys2Proof.Tests
end

section
/-! What `step` does with each kind of agenda, and the statement of 00_scope.md about it. -/

namespace Sys2Proof.Machine

@[simp] theorem nextEvent_of_agenda_nil {s : State} (h : s.agenda = []) : nextEvent s = none := by
  simp only [nextEvent, h]

@[simp] theorem nextEvent_of_agenda_cons {s : State} {e : Event} {rest : List Event} (h : s.agenda = e :: rest) :
    nextEvent s = some (e, { s with agenda := rest }) := by
  simp only [nextEvent, h]

@[simp] theorem runEvent_reset (c : Ctl) (s : State) : runEvent (.reset c) s = .next (hostReset c s) := rfl

@[simp] theorem runEvent_agent (a : AgentStep) (s : State) : runEvent (.agent a) s = .next (agentStep s a) := rfl

/-- 70 R313: the block waits for the host or an agent. -/
theorem step_of_agenda_nil {s : State} (hf : s.fault = none) (h : s.agenda = []) : step s = .next s := by
  simp only [step, hf, nextEvent_of_agenda_nil h]

/-- 00 R5: the event at the head of the agenda happens, and leaves the agenda before it does. -/
theorem step_of_agenda_cons {s : State} {e : Event} {rest : List Event} (hf : s.fault = none)
    (h : s.agenda = e :: rest) : step s = runEvent e { s with agenda := rest } := by
  simp only [step, hf, nextEvent_of_agenda_cons h]

/-- Settles O6: the idle step, and the step of an event for the reset pulse and for the agent step. -/
theorem stepRunsOtherEvents : Obligations.StepRunsOtherEvents := by
  intro s hf
  refine ⟨step_of_agenda_nil hf, fun c rest h => ?reset, fun a rest h => ?agent⟩
  case reset => rw [step_of_agenda_cons hf h, runEvent_reset]
  case agent => rw [step_of_agenda_cons hf h, runEvent_agent]

end Sys2Proof.Machine
end

section
/-! What a command keeps: a property that every access and every gap keeps holds after the command, whether it answers
or raises. One walk over the 32 commands; the invariant and the isolation of the controllers both use it. -/

namespace Sys2Proof.Machine

open Sys2Proof.Spec

/-- The state in which a part of a command ends, with a value or with a fault. -/
def endState {α : Type} : EStateM.Result Fault State α → State
  | .ok _ s => s
  | .error _ s => s

/-! ### Parts of a command -/

/-- P holds after the part of a command wherever it held before, whether the part answers or raises. -/
def Cmd.Keeps {α : Type} (P : State → Prop) (c : Cmd α) : Prop := ∀ s, P s → P (endState (c s))

section
variable {P : State → Prop} {α β : Type}

theorem Cmd.Keeps.pure {a : α} : Cmd.Keeps P (Pure.pure a : Cmd α) := fun _ h => h

theorem Cmd.Keeps.raise {f : Fault} : Cmd.Keeps P (Machine.raise f : Cmd α) := fun _ h => h

theorem Cmd.Keeps.bind {c : Cmd α} {f : α → Cmd β} (hc : Cmd.Keeps P c) (hf : ∀ a, Cmd.Keeps P (f a)) :
    Cmd.Keeps P (c >>= f) := by
  intro s hs
  have hs' := hc s hs
  rw [Cmd.bind_apply]
  cases h : c s with
  | ok a s' => rw [h] at hs'; exact hf a s' hs'
  | error e s' => rw [h] at hs'; exact hs'

theorem Cmd.Keeps.ite {q : Prop} [Decidable q] {c d : Cmd α} (hc : Cmd.Keeps P c) (hd : Cmd.Keeps P d) :
    Cmd.Keeps P (if q then c else d) := by
  split
  · exact hc
  · exact hd

/-- Reading an operand changes nothing. -/
theorem Cmd.Keeps.operand {i w : Nat} : Cmd.Keeps P (Machine.operand i w) := by
  intro s hs
  rcases operand_cases s i w with ⟨_, h⟩ | ⟨_, h⟩ <;> rw [h] <;> exact hs

theorem Cmd.Keeps.word {i : Nat} : Cmd.Keeps P (operandWord i) := .bind .operand fun _ => .pure

theorem Cmd.Keeps.irqOperand : Cmd.Keeps P Machine.irqOperand := .bind .word fun _ => .ite .pure .raise

theorem Cmd.Keeps.withMailbox {i : Instr} {idx : BitVec 2} {body : Fin 3 → Cmd Results}
    (h : ∀ m, Cmd.Keeps P (body m)) : Cmd.Keeps P (Machine.withMailbox i idx body) := by
  unfold Machine.withMailbox
  split
  · exact h _
  · exact .raise

theorem Cmd.Keeps.withFifo {i : Instr} {idx : BitVec 2} {body : Fin 2 → Cmd Results}
    (h : ∀ f, Cmd.Keeps P (body f)) : Cmd.Keeps P (Machine.withFifo i idx body) := by
  unfold Machine.withFifo
  split
  · exact h _
  · exact .raise

end

/-- A filter register stands at an offset from 0x200 on, of controller 0 only (20 R81, 10 R40). -/
theorem regAt_isFilter {c : Ctl} {off : Nat} {r : Reg} (h : regAt c off = some r) (hr : r.isFilter = true) :
    c = .primary ∧ 0x200 ≤ off := by
  unfold regAt at h
  split at h
  · unfold controlReg at h
    split at h <;> cases h <;> cases hr
  · split at h
    · unfold blockReg at h
      split at h <;> cases h <;> cases hr
    · cases c with
      | primary => exact ⟨rfl, by omega⟩
      | secondary => cases h

/-! ### The accesses of a command -/

/-- P is kept by whatever a command of controller c can do to the state: its accesses, the gaps between them, its end.
`fw` says whether the command may write a filter register. -/
structure AccessInvariant (P : State → Prop) (c : Ctl) (fw : Bool) : Prop where
  advance : ∀ s n, P s → P (s.advance n)
  runGap : ∀ s, P s → P (runGap s)
  writeReg : ∀ r v, (r.isFilter = true → fw = true) → Cmd.Keeps P (writeReg c r v)
  setRes : ∀ s r, P s → P (s.setRes r)
  recordFault : ∀ s f, P s → P (recordFault f s)

section
variable {P : State → Prop} {c : Ctl} {fw : Bool} (h : AccessInvariant P c fw)
include h

theorem AccessInvariant.draw : Cmd.Keeps P Machine.draw := fun s hs => h.advance s 1 hs

theorem AccessInvariant.gap : Cmd.Keeps P Machine.gap := fun s hs => h.runGap s hs

theorem AccessInvariant.read {d : Ctl} {off n : Nat} : Cmd.Keeps P (memRead d off n) := by
  intro s hs
  rcases memRead_cases d off n s with ⟨v, hv⟩ | ⟨f, hf⟩
  · rw [hv]; exact h.advance s 2 hs
  · rw [hf]; exact hs

theorem AccessInvariant.write {off n : Nat} {v : Word}
    (ho : c = .primary → 0x200 ≤ off → fw = true) : Cmd.Keeps P (memWrite c off n v) := by
  unfold memWrite
  refine .ite ?_ .raise
  split
  case h_1 r hr => exact h.writeReg r v fun hf => (regAt_isFilter hr hf).elim ho
  case h_2 => exact .raise

/-- A write below the filter registers, as every command but the raw accesses makes. -/
theorem AccessInvariant.writeLow {off n : Nat} {v : Word} (ho : off < 0x200) : Cmd.Keeps P (memWrite c off n v) :=
  h.write fun _ hge => absurd hge (by omega)

theorem AccessInvariant.requestRelease {f : Fin 2} : Cmd.Keeps P (requestRelease c f) :=
  h.writeLow (by simp only [rfOff]; omega)

theorem AccessInvariant.sendInto {b : Nat} {mobid : Word} {p : BitVec 64} {dlc : BitVec 4} (hb : b + 0xC < 0x200) :
    Cmd.Keeps P (sendInto c b mobid p dlc) :=
  .bind h.gap fun _ => .bind (h.writeLow (by omega)) fun _ =>
  .bind h.gap fun _ => .bind (h.writeLow (by omega)) fun _ => .bind h.draw fun _ =>
  .bind h.gap fun _ => .bind (h.writeLow (by omega)) fun _ =>
  .bind h.gap fun _ => .bind (h.writeLow (by omega)) fun _ =>
  .bind h.gap fun _ => .bind h.read fun _ => .bind h.gap fun _ => h.writeLow (by omega)

theorem AccessInvariant.gapBefore {gs : List IrqSource} : Cmd.Keeps P (gapBefore gs) := by
  cases gs with
  | nil => exact .pure
  | cons g gs => exact h.gap

theorem AccessInvariant.irqPendLoop {k : Word} {gs : List IrqSource} {p : Word} :
    Cmd.Keeps P (irqPendLoop c k gs p) := by
  induction gs generalizing p with
  | nil => exact .pure
  | cons g gs ih => exact .bind h.read fun _ => .bind h.gapBefore fun _ => ih

theorem AccessInvariant.irqWriteBack {g : IrqSource} {w : Word} : Cmd.Keeps P (irqWriteBack c g w) :=
  .ite .pure (.bind h.gap fun _ => h.writeLow (by cases g <;> decide))

theorem AccessInvariant.irqClrLoop {k : Word} {gs : List IrqSource} {p : Word} :
    Cmd.Keeps P (irqClrLoop c k gs p) := by
  induction gs generalizing p with
  | nil => exact .pure
  | cons g gs ih =>
    exact .bind h.read fun _ => .bind h.irqWriteBack fun _ => .bind h.gapBefore fun _ => ih

/-- The end of a command keeps P too: its results, or the fault it raised (60 R280). -/
theorem AccessInvariant.command {body : Cmd Results} (hb : Cmd.Keeps P body) {s t : State}
    (ht : command s body = .next t) (hs : P s) : P t := by
  obtain ⟨-, rfl⟩ := command_next_inv ht
  have hend := hb s hs
  cases hr : body s with
  | ok r s' => rw [hr] at hend; exact h.setRes s' r hend
  | error f s' => rw [hr] at hend; exact h.recordFault s' f hend

end

theorem tsrCode_lt (t : Word) : tsrCode t < 4 := (t.extractLsb' 24 2).isLt

/-- A command keeps what its accesses, the gaps between them and its end keep. -/
theorem AccessInvariant.exec {P : State → Prop} {i : Instr} (h : AccessInvariant P i.instField (mayWriteFilters i))
    {s t : State} (ht : exec i s = .next t) : P s → P t := by
  cases i with
  | regRd c => exact h.command (.bind .operand fun _ => .bind h.read fun _ => .pure) ht
  | regWr c =>
    exact h.command (.bind .operand fun _ => .bind .word fun _ =>
      .bind (h.write fun hc _ => beq_iff_eq.mpr hc) fun _ => .pure) ht
  | regRmw c =>
    exact h.command (.bind .operand fun _ => .bind .word fun _ => .bind .word fun _ => .bind h.read fun _ =>
      .bind h.gap fun _ => .bind (h.write fun hc _ => beq_iff_eq.mpr hc) fun _ => .pure) ht
  | btSynth => exact h.command (.bind .operand fun _ => .bind .operand fun _ => .bind .operand fun _ => .pure) ht
  | btFreq =>
    exact h.command (.bind .operand fun _ => .bind .operand fun _ => .bind .operand fun _ => .bind .operand fun _ =>
      .bind .operand fun _ => .ite .raise .pure) ht
  | btApply c =>
    exact h.command (.bind .operand fun _ => .bind .operand fun _ => .bind .operand fun _ => .bind .operand fun _ =>
      .ite (.bind h.read fun _ => .bind h.gap fun _ => .bind (h.writeLow (by decide)) fun _ => .pure) .raise) ht
  | btRead c => exact h.command (.bind h.read fun _ => .pure) ht
  | btClear c => exact h.command (.bind (h.writeLow (by decide)) fun _ => .pure) ht
  | fwL32 | fwM32 | idCmp | idCmps => exact h.command (.bind .word fun _ => .bind .word fun _ => .pure) ht
  | fwL16 | fwM16 =>
    exact h.command (.bind .word fun _ => .bind .word fun _ => .bind .word fun _ => .bind .word fun _ => .pure) ht
  | fwEnc16 | idEnc | idDec | idFields => exact h.command (.bind .word fun _ => .pure) ht
  | fwDec16 => exact h.command (.bind .operand fun _ => .pure) ht
  | idCmpm | idCmpsm => exact h.command (.bind .word fun _ => .bind .word fun _ => .bind .word fun _ => .pure) ht
  | idMkstd | idMkext => exact h.command (.bind .operand fun _ => .bind .operand fun _ => .pure) ht
  | txSelect c => exact h.command (.bind h.read fun _ => .pure) ht
  | txSend c =>
    exact h.command (.bind .word fun _ => .bind .operand fun _ => .bind .operand fun _ => .bind h.read fun t =>
      .ite .pure (.bind (h.sendInto (by have := tsrCode_lt t; omega)) fun _ => .pure)) ht
  | txReadback c idx =>
    exact h.command (.withMailbox fun _ => .bind h.read fun _ => .bind h.gap fun _ => .bind h.read fun _ =>
      .bind h.gap fun _ => .bind h.read fun _ => .bind h.gap fun _ => .bind h.read fun _ => .pure) ht
  | txStatus c idx => exact h.command (.withMailbox fun _ => .bind h.read fun _ => .pure) ht
  | rxRead c idx rel =>
    exact h.command (.withFifo fun _ => .bind h.read fun _ => .bind h.gap fun _ => .bind h.read fun _ =>
      .bind h.gap fun _ => .bind h.read fun _ => .bind h.gap fun _ => .bind h.read fun _ =>
      .ite (.bind h.gap fun _ => .bind h.requestRelease fun _ => .pure) .pure) ht
  | rxRelease c idx => exact h.command (.withFifo fun _ => .bind h.requestRelease fun _ => .pure) ht
  | rxCount c idx => exact h.command (.withFifo fun _ => .bind h.read fun _ => .pure) ht
  | irqPend c => exact h.command (.bind .irqOperand fun _ => .bind h.irqPendLoop fun _ => .pure) ht
  | irqClr c => exact h.command (.bind .irqOperand fun _ => .bind h.irqClrLoop fun _ => .pure) ht

end Sys2Proof.Machine
end

section
/-! What the invariant asks of each part of a controller, and that the updates of a mailbox, a FIFO and the request
order keep it. -/

namespace Sys2Proof.Machine

/-! ### Words -/

theorem and_and_not_self (v m : Word) : v &&& m &&& ~~~m = 0 := by simp [BitVec.and_assoc]

/-- Clearing bits of a word sets none. -/
theorem and_and_eq_zero {a m : Word} (h : a &&& m = 0) (b : Word) : a &&& b &&& m = 0 := by
  rw [BitVec.and_assoc, BitVec.and_comm b m, ← BitVec.and_assoc, h]
  exact BitVec.zero_and

/-- 40 R137: the host's write of LEC leaves the undefined bits of ESR 0. -/
theorem esr_lecWritten_inv {e : Word} (h : e &&& ~~~esrMask = 0) (v : Word) :
    ((e &&& ~~~lecMask) ||| (v &&& lecMask)) &&& ~~~esrMask = 0 := by
  have hlec : lecMask &&& ~~~esrMask = 0 := by decide
  rw [BitVec.and_comm, BitVec.and_or_distrib_left, BitVec.and_comm, and_and_eq_zero h, BitVec.and_comm,
    BitVec.and_comm v, and_and_eq_zero hlec]
  rfl

/-- The reset value of BTR lies in its fixed fields, whatever BRP_BITS is. -/
theorem btr_reset_inv (p : Params) : Ctrl.reset.btr &&& ~~~btrMask p = 0 := by
  have hfixed : (0x01230000 : Word) &&& ~~~(0xC37F0000 : Word) = 0 := by decide
  show (0x01230000 : Word) &&& ~~~((0xC37F0000 : Word) ||| brpMask p) = 0
  rw [BitVec.not_or, ← BitVec.and_assoc, hfixed]
  exact BitVec.zero_and

/-! ### Mailboxes -/

/-- A mailbox that is neither pending nor asked to abort is in order, whatever is written in it. -/
theorem Mailbox.inv_of_idle {x : Mailbox} (ht : x.txrq = false) (ha : x.abrq = false) : x.inv :=
  ⟨fun h => absurd h (by simp [ht]), fun h => absurd h (by simp [ha])⟩

/-- No abort is asked of an empty mailbox in order. -/
theorem Mailbox.inv.abrq_eq_false {x : Mailbox} (h : x.inv) (ht : x.txrq = false) : x.abrq = false := by
  cases ha : x.abrq with
  | false => rfl
  | true => rw [h.2 ha] at ht; cases ht

/-- 40 R135: a TSR write asks for an abort of a pending mailbox only. -/
theorem Mailbox.inv.tsrWritten {x : Mailbox} (h : x.inv) (v : Word) (b : Nat) : (x.tsrWritten v b).inv := by
  refine ⟨h.1, fun ha => ?_⟩
  simp only [Mailbox.tsrWritten, Bool.or_eq_true, Bool.and_eq_true] at ha
  exact ha.elim h.2 And.right

theorem Mailbox.inv.retried {x : Mailbox} (h : x.inv) (o : TxOutcome) (d : BitVec 64) : (x.retried o d).inv := h

/-- 40 R139: a mailbox whose transmit request passes the check has its needed registers written. -/
theorem Mailbox.inv_requested {x : Mailbox} {m : Fin 3} (hw : x.wroteTi = true) (hm : x.missing m = none) :
    x.requested.inv := by
  unfold Mailbox.missing at hm
  split_ifs at hm with htdt htdl htdh
  have hdt : x.wroteTdt = true := by simpa using htdt
  have hdl : 0 < nbytes x.dlc → x.wroteTdl = true := by simpa using htdl
  have hdh : 4 < nbytes x.dlc → x.wroteTdh = true := by simpa using htdh
  exact ⟨fun _ => ⟨hw, hdt, hdl, hdh⟩, fun _ => rfl⟩

/-! ### FIFOs -/

theorem Fifo.inv.rfrWritten {x : Fifo} (h : x.inv) (v : Word) : (x.rfrWritten v).inv := by
  obtain ⟨hlen, hrir, hrel⟩ := h
  refine ⟨hlen, hrir, fun hr => ?_⟩
  simp only [Fifo.rfrWritten, Bool.or_eq_true, Bool.and_eq_true, decide_eq_true_eq] at hr
  exact hr.elim hrel fun hr => List.length_pos_iff.mp hr.2

/-- 44 R231, R232: a delivery puts a legal entry into the FIFO and never lengthens a full one. -/
theorem Fifo.inv.delivered {x : Fifo} (h : x.inv) (rflm : Bool) {e : Entry} (he : e.rir.getLsbD 0 = false) :
    (x.delivered rflm e).inv := by
  obtain ⟨hlen, hrir, hrel⟩ := h
  unfold Fifo.delivered
  split
  case isTrue hlt =>
    refine ⟨by simp; omega, fun e' he' => ?_, by simp⟩
    rcases List.mem_append.mp he' with hq | hq
    · exact hrir e' hq
    · rw [List.mem_singleton.mp hq]; exact he
  case isFalse hge =>
    cases rflm with
    | true => exact ⟨hlen, hrir, hrel⟩
    | false =>
      refine ⟨by simp, fun e' he' => ?_, by simp⟩
      rcases List.mem_append.mp he' with hq | hq
      · exact hrir e' (List.mem_of_mem_take hq)
      · rw [List.mem_singleton.mp hq]; exact he

theorem Fifo.inv.released {x : Fifo} (h : x.inv) : x.released.inv := by
  obtain ⟨hlen, hrir, -⟩ := h
  exact ⟨by simp [Fifo.released]; omega, fun e he => hrir e (List.mem_of_mem_tail he), fun hr => by cases hr⟩

/-! ### Instances -/

section
variable {p : Params} {r : Ctrl}

theorem Ctrl.inv_reset (p : Params) : Ctrl.reset.inv p := by
  refine ⟨by decide, by decide, by decide, btr_reset_inv p, by decide, fun m => ?_, fun f => ?_, by decide, fun m => ?_⟩
  · rw [Ctrl.mb_reset]; decide
  · rw [Ctrl.fifo_reset]; decide
  · rw [Ctrl.mb_reset]; simp [Ctrl.reset, Mailbox.reset]

theorem Ctrl.inv.mailbox (h : r.inv p) (m : Fin 3) : (r.mb m).inv := by
  obtain ⟨-, -, -, -, -, hmb, -⟩ := h
  exact hmb m

theorem Ctrl.inv.fifo (h : r.inv p) (f : Fin 2) : (r.fifo f).inv := by
  obtain ⟨-, -, -, -, -, -, hfifo, -⟩ := h
  exact hfifo f

theorem Ctrl.inv.setFifo (h : r.inv p) {f : Fin 2} {x : Fifo} (hx : x.inv) : (r.setFifo f x).inv p := by
  obtain ⟨hmcr, hier, hesr, hbtr, hack, hmb, hfifo, hnd, hreq⟩ := h
  refine ⟨hmcr, hier, hesr, hbtr, hack, hmb, fun g => ?_, hnd, hreq⟩
  rw [Ctrl.fifo_setFifo]
  split
  · exact hx
  · exact hfifo g

/-- A mailbox in order replaces another, and the request order goes with it (10 R43). -/
theorem Ctrl.inv.setMb_reqOrder (h : r.inv p) {m : Fin 3} {x : Mailbox} {l : List (Fin 3)} (hx : x.inv)
    (hnd : l.Nodup) (hm : m ∈ l ↔ x.txrq = true) (hl : ∀ n ≠ m, (n ∈ l ↔ n ∈ r.reqOrder)) :
    { r.setMb m x with reqOrder := l }.inv p := by
  obtain ⟨hmcr, hier, hesr, hbtr, hack, hmb, hfifo, -, hreq⟩ := h
  have hget : ∀ n, (r.setMb m x).mb n = if n = m then x else r.mb n := fun n => Ctrl.mb_setMb r m n x
  refine ⟨hmcr, hier, hesr, hbtr, hack, fun n => ?_, hfifo, hnd, fun n => ?_⟩
  · show ((r.setMb m x).mb n).inv
    rw [hget]
    split
    · exact hx
    · exact hmb n
  · show n ∈ l ↔ ((r.setMb m x).mb n).txrq = true
    rw [hget]
    split
    case isTrue hn => rw [hn]; exact hm
    case isFalse hn => rw [hl n hn]; exact hreq n

theorem Ctrl.inv.mem_reqOrder (h : r.inv p) (m : Fin 3) : m ∈ r.reqOrder ↔ (r.mb m).txrq = true := by
  obtain ⟨-, -, -, -, -, -, -, -, hreq⟩ := h
  exact hreq m

theorem Ctrl.inv.nodup_reqOrder (h : r.inv p) : r.reqOrder.Nodup := by
  obtain ⟨-, -, -, -, -, -, -, hnd, -⟩ := h
  exact hnd

/-- A mailbox that stays pending or stays empty leaves the request order right. -/
theorem Ctrl.inv.setMb (h : r.inv p) {m : Fin 3} {x : Mailbox} (hx : x.inv) (ht : x.txrq = (r.mb m).txrq) :
    (r.setMb m x).inv p :=
  h.setMb_reqOrder hx h.nodup_reqOrder (by rw [ht]; exact h.mem_reqOrder m) fun _ _ => Iff.rfl

/-- 40 R139: a request of an empty mailbox puts it at the end of the request order. -/
theorem Ctrl.inv.request (h : r.inv p) {m : Fin 3} {x : Mailbox} (hx : x.inv) (ht : x.txrq = true)
    (hm : (r.mb m).txrq = false) : { r.setMb m x with reqOrder := r.reqOrder ++ [m] }.inv p := by
  have hnot : m ∉ r.reqOrder := by rw [h.mem_reqOrder, hm]; decide
  refine h.setMb_reqOrder hx ?_ (by simp [ht]) fun n hn => by simp [hn]
  exact List.Nodup.append h.nodup_reqOrder (List.nodup_singleton m) (by simpa using hnot)

/-- 43 R206, R212: a mailbox that is no longer pending leaves the request order. -/
theorem Ctrl.inv.dropRequest (h : r.inv p) {m : Fin 3} {x : Mailbox} (hx : x.inv) (ht : x.txrq = false) :
    ((r.setMb m x).dropRequest m).inv p :=
  h.setMb_reqOrder hx (h.nodup_reqOrder.filter _) (by simp [ht]) fun n hn => by simp [hn]

end

end Sys2Proof.Machine
end

section
/-! That every step of an agent and every register write keeps the invariant; a register write is the update of one
controller or of the filter registers. -/

namespace Sys2Proof.Machine

/-! ### The agents -/

/-- INAK and SLAK of an acknowledged mode are not both set (60 R290, R296). -/
theorem Mode.ack_exclusive (m : Mode) : ¬(m.ack.1 = true ∧ m.ack.2 = true) := by cases m <;> decide

section
variable {p : Params} {r : Ctrl}

theorem Ctrl.inv.acked (h : r.inv p) : r.acked.inv p := by
  obtain ⟨hmcr, hier, hesr, hbtr, -, hmb, hfifo, hnd, hreq⟩ := h
  exact ⟨hmcr, hier, hesr, hbtr, r.target.ack_exclusive, hmb, hfifo, hnd, hreq⟩

theorem Ctrl.inv.errored (h : r.inv p) (e : Word) (b : Bool) : (r.errored e b).inv p := by
  obtain ⟨hmcr, hier, -, hbtr, hack, hmb, hfifo, hnd, hreq⟩ := h
  exact ⟨hmcr, hier, and_and_not_self e esrMask, hbtr, hack, hmb, hfifo, hnd, hreq⟩

theorem Ctrl.inv.woken (h : r.inv p) : r.woken.inv p := by
  obtain ⟨hmcr, hier, hesr, hbtr, hack, hmb, hfifo, hnd, hreq⟩ := h
  refine ⟨?_, hier, hesr, hbtr, hack, hmb, hfifo, hnd, hreq⟩
  show (if r.awum then r.mcr &&& 0xFFFFFFFD else r.mcr) &&& ~~~mcrMask = 0
  split
  · exact and_and_eq_zero hmcr _
  · exact hmcr

/-- An enabled agent step leaves its controller in order. -/
theorem Ctrl.inv.effect (h : r.inv p) {a : AgentStep} (he : a.enabledIn p r = true) (d0 d1 : BitVec 64) :
    (a.effect d0 d1 r).inv p := by
  cases a with
  | complete c m o => exact h.dropRequest (Mailbox.inv_of_idle rfl rfl) rfl
  | retry c m o => exact h.setMb ((h.mailbox m).retried o d0) rfl
  | abort c m => exact h.dropRequest (Mailbox.inv_of_idle rfl rfl) rfl
  | deliver c f e =>
    have hrir : e.rir.getLsbD 0 = false := by
      simp only [AgentStep.enabledIn, Ctrl.canDeliver, Bool.and_eq_true, Bool.not_eq_true'] at he
      exact he.2
    exact h.setFifo ((h.fifo f).delivered r.rflm hrir)
  | release c f => exact h.setFifo (h.fifo f).released
  | ack c => exact h.acked
  | error c e b => exact h.errored e b
  | wake c => exact h.woken

end

/-! ### The whole state -/

theorem State.inv_iff (s : State) : s.inv ↔ (∀ c, (s.ctl c).inv s.params) ∧ s.filters.inv := by
  constructor
  · rintro ⟨h0, h1, hf⟩
    refine ⟨fun c => ?_, hf⟩
    cases c with
    | primary => exact h0
    | secondary => exact h1
  · rintro ⟨h, hf⟩
    exact ⟨h .primary, h .secondary, hf⟩

theorem State.inv.ctl {s : State} (h : s.inv) (c : Ctl) : (s.ctl c).inv s.params := (s.inv_iff.mp h).1 c

theorem State.inv.filters {s : State} (h : s.inv) : s.filters.inv := (s.inv_iff.mp h).2

theorem State.inv.setCtl {s : State} (h : s.inv) {c : Ctl} {k : Ctrl} (hk : k.inv s.params) : (s.setCtl c k).inv := by
  rw [State.inv_iff, State.params_setCtl, State.filters_setCtl]
  refine ⟨fun d => ?_, h.filters⟩
  rw [State.ctl_setCtl]
  split
  · exact hk
  · exact h.ctl d

theorem State.inv.setFilters {s : State} (h : s.inv) {x : Filters} (hx : x.inv) : (s.setFilters x).inv :=
  ⟨h.ctl .primary, h.ctl .secondary, hx⟩

theorem Filters.inv_reset : Filters.reset.inv := by decide

theorem State.inv.agentStep {s : State} (h : s.inv) (a : AgentStep) : (agentStep s a).inv := by
  rcases agentStep_cases s a with ⟨-, hs⟩ | ⟨he, hs⟩
  · rw [hs]; exact h
  · rw [hs]; exact h.setCtl ((h.ctl a.owner).effect he _ _)

theorem State.inv.runGap {s : State} (h : s.inv) : (runGap s).inv :=
  runGap_induct (P := State.inv) (fun _ _ hs => hs) (fun _ a hs => hs.agentStep a) s h

theorem State.inv.softwareReset {s : State} (h : s.inv) (c : Ctl) : (softwareReset c s).inv :=
  h.setCtl (Ctrl.inv_reset _)

theorem State.inv.hostReset {s : State} (h : s.inv) (c : Ctl) : (hostReset c s).inv := by
  cases c with
  | primary => exact (h.softwareReset .primary).setFilters Filters.inv_reset
  | secondary => exact h.softwareReset .secondary

/-! ### The register writes -/

/-- The write replaces controller c by one that is in order where the old one is; a raising write replaces it too, by
itself or by what it stored before the raise. -/
def UpdatesCtl (c : Ctl) (w : Cmd Unit) : Prop :=
  ∀ s, ∃ k, endState (w s) = s.setCtl c k ∧ ((s.ctl c).inv s.params → k.inv s.params)

/-- The write replaces the filter registers by ones in order where the old ones are. -/
def UpdatesFilters (w : Cmd Unit) : Prop :=
  ∀ s, ∃ x, endState (w s) = s.setFilters x ∧ (s.filters.inv → x.inv)

/-- An end in the state of the beginning is the replacement of the controller by itself. -/
theorem updatesCtl_self (c : Ctl) (s : State) : ∃ k, s = s.setCtl c k ∧ ((s.ctl c).inv s.params → k.inv s.params) :=
  ⟨s.ctl c, (s.setCtl_ctl c).symm, id⟩

theorem updatesFilters_self (s : State) : ∃ x, s = s.setFilters x ∧ (s.filters.inv → x.inv) :=
  ⟨s.filters, rfl, id⟩

theorem writeMcr_updates (c : Ctl) (v : Word) : UpdatesCtl c (writeMcr c v) := by
  intro s
  unfold writeMcr
  dsimp only
  split
  · exact updatesCtl_self c s
  · split
    · exact ⟨Ctrl.reset, s.setCtl_setCtl c _ _, fun _ => Ctrl.inv_reset _⟩
    · refine ⟨_, rfl, fun ⟨_, hier, hesr, hbtr, hack, hmb, hfifo, hnd, hreq⟩ => ?_⟩
      exact ⟨and_and_not_self v mcrMask, hier, hesr, hbtr, hack, hmb, hfifo, hnd, hreq⟩

theorem writeMsr_updates (c : Ctl) (v : Word) : UpdatesCtl c (writeMsr c v) := fun _ => ⟨_, rfl, id⟩

theorem writeTsr_updates (c : Ctl) (v : Word) : UpdatesCtl c (writeTsr c v) := by
  intro s
  refine ⟨_, rfl, fun h => ?_⟩
  have h0 := h.setMb ((h.mailbox 0).tsrWritten v 0) rfl
  have h1 := h0.setMb (m := 1) ((h.mailbox 1).tsrWritten v 8) (by simp [Mailbox.tsrWritten])
  exact h1.setMb (m := 2) ((h.mailbox 2).tsrWritten v 16) (by simp [Mailbox.tsrWritten])

theorem writeRfr_updates (c : Ctl) (f : Fin 2) (v : Word) : UpdatesCtl c (writeRfr c f v) :=
  fun _ => ⟨_, rfl, fun h => h.setFifo ((h.fifo f).rfrWritten v)⟩

theorem writeIer_updates (c : Ctl) (v : Word) : UpdatesCtl c (writeIer c v) := by
  refine fun _ => ⟨_, rfl, fun ⟨hmcr, _, hesr, hbtr, hack, hmb, hfifo, hnd, hreq⟩ => ?_⟩
  exact ⟨hmcr, and_and_not_self v ierMask, hesr, hbtr, hack, hmb, hfifo, hnd, hreq⟩

theorem writeEsr_updates (c : Ctl) (v : Word) : UpdatesCtl c (writeEsr c v) := by
  refine fun _ => ⟨_, rfl, fun ⟨hmcr, hier, hesr, hbtr, hack, hmb, hfifo, hnd, hreq⟩ => ?_⟩
  exact ⟨hmcr, hier, esr_lecWritten_inv hesr v, hbtr, hack, hmb, hfifo, hnd, hreq⟩

theorem writeBtr_updates (c : Ctl) (v : Word) : UpdatesCtl c (writeBtr c v) := by
  intro s
  unfold writeBtr
  dsimp only
  split
  · exact updatesCtl_self c s
  · refine ⟨_, rfl, fun ⟨hmcr, hier, hesr, _, hack, hmb, hfifo, hnd, hreq⟩ => ?_⟩
    exact ⟨hmcr, hier, hesr, and_and_not_self v (btrMask s.params), hack, hmb, hfifo, hnd, hreq⟩

/-- 40 R139: the stored identifier stays where the request raises. -/
theorem writeTi_updates (c : Ctl) (m : Fin 3) (v : Word) : UpdatesCtl c (writeTi c m v) := by
  intro s
  unfold writeTi
  dsimp only
  split
  case isTrue => exact updatesCtl_self c s
  case isFalse hbusy =>
    have hidle : ((s.ctl c).mb m).txrq = false := Bool.eq_false_of_not_eq_true hbusy
    have hstored : ∀ h : (s.ctl c).inv s.params, ((s.ctl c).setMb m
        { (s.ctl c).mb m with ident := v.extractLsb' 1 31, wroteTi := true }).inv s.params := fun h =>
      h.setMb (Mailbox.inv_of_idle hidle ((h.mailbox m).abrq_eq_false hidle)) rfl
    split
    · split
      case h_1 r hr => exact ⟨_, rfl, hstored⟩
      case h_2 hnone =>
        refine ⟨_, s.setCtl_setCtl c _ _, fun h => ?_⟩
        rw [State.setMb_def, State.ctl_setCtl_self]
        exact (hstored h).request (Mailbox.inv_requested rfl hnone) rfl (by rw [Ctrl.mb_setMb_self]; exact hidle)
    · exact ⟨_, rfl, hstored⟩

/-- 40 R140: a data register of a mailbox that is not pending is no part of the invariant. -/
theorem writeData_updates (c : Ctl) (m : Fin 3) {f : Mailbox → Mailbox} (ht : ∀ x, (f x).txrq = x.txrq)
    (ha : ∀ x, (f x).abrq = x.abrq) : UpdatesCtl c (writeData c m f) := by
  intro s
  unfold writeData
  split
  case isTrue => exact updatesCtl_self c s
  case isFalse hbusy =>
    have hidle : ((s.ctl c).mb m).txrq = false := Bool.eq_false_of_not_eq_true hbusy
    refine ⟨_, rfl, fun h => h.setMb (Mailbox.inv_of_idle ?_ ?_) (ht _)⟩
    · exact (ht _).trans hidle
    · exact (ha _).trans ((h.mailbox m).abrq_eq_false hidle)

theorem writeBankBits_updates (off : Nat) (old v : Word) {put : Filters → Filters}
    (h : ∀ x : Filters, x.inv → (put x).inv) : UpdatesFilters (writeBankBits off old v put) := by
  intro s
  unfold writeBankBits
  split
  · exact updatesFilters_self s
  · exact ⟨_, rfl, h _⟩

theorem writeFm1r_updates (v : Word) : UpdatesFilters (writeFm1r v) := by
  refine fun s => writeBankBits_updates _ _ v ?_ s
  exact fun _ ⟨hf, _, hs, hfifo, ha⟩ => ⟨hf, and_and_not_self v bankMask, hs, hfifo, ha⟩

theorem writeFs1r_updates (v : Word) : UpdatesFilters (writeFs1r v) := by
  refine fun s => writeBankBits_updates _ _ v ?_ s
  exact fun _ ⟨hf, hm, _, hfifo, ha⟩ => ⟨hf, hm, and_and_not_self v bankMask, hfifo, ha⟩

theorem writeFfa1r_updates (v : Word) : UpdatesFilters (writeFfa1r v) := by
  refine fun s => writeBankBits_updates _ _ v ?_ s
  exact fun _ ⟨hf, hm, hs, _, ha⟩ => ⟨hf, hm, hs, and_and_not_self v bankMask, ha⟩

/-- 40 R142: the filter words themselves are no part of the invariant. -/
theorem writeBank_updates (off : Nat) (n : Fin 28) (put : Bank → Bank) : UpdatesFilters (writeBank off n put) := by
  intro s
  unfold writeBank
  split
  · exact updatesFilters_self s
  · exact ⟨_, rfl, id⟩

/-- A write to a register that is no filter register updates its own controller (40 R133 to R141). -/
theorem writeReg_updatesCtl (c : Ctl) {r : Reg} (hr : r.isFilter = false) (v : Word) :
    UpdatesCtl c (writeReg c r v) := by
  cases r with
  | mcr => exact writeMcr_updates c v
  | msr => exact writeMsr_updates c v
  | tsr => exact writeTsr_updates c v
  | rfr f => exact writeRfr_updates c f v
  | ier => exact writeIer_updates c v
  | esr => exact writeEsr_updates c v
  | btr => exact writeBtr_updates c v
  | ti m => exact writeTi_updates c m v
  | tdt m => exact writeData_updates c m (f := fun x => x.setTdt v) (fun _ => rfl) fun _ => rfl
  | tdl m => exact writeData_updates c m (f := fun x => x.setTdl v) (fun _ => rfl) fun _ => rfl
  | tdh m => exact writeData_updates c m (f := fun x => x.setTdh v) (fun _ => rfl) fun _ => rfl
  | ri _ | rdt _ | rdl _ | rdh _ => exact updatesCtl_self c
  | fmr | fm1r | fs1r | ffa1r | fa1r | fr1 _ | fr2 _ => cases hr

/-- A write to a filter register updates the filter registers (40 R142). -/
theorem writeReg_updatesFilters (c : Ctl) {r : Reg} (hr : r.isFilter = true) (v : Word) :
    UpdatesFilters (writeReg c r v) := by
  cases r with
  | fmr => exact fun _ => ⟨_, rfl, fun ⟨_, hm, hs, hfifo, ha⟩ => ⟨and_and_not_self v fmrMask, hm, hs, hfifo, ha⟩⟩
  | fm1r => exact writeFm1r_updates v
  | fs1r => exact writeFs1r_updates v
  | ffa1r => exact writeFfa1r_updates v
  | fa1r => exact fun _ => ⟨_, rfl, fun ⟨hf, hm, hs, hfifo, _⟩ => ⟨hf, hm, hs, hfifo, and_and_not_self v bankMask⟩⟩
  | fr1 n => exact writeBank_updates (Reg.fr1 n).offset n fun b => { b with r1 := v, wrote1 := true }
  | fr2 n => exact writeBank_updates (Reg.fr2 n).offset n fun b => { b with r2 := v, wrote2 := true }
  | mcr | msr | tsr | rfr _ | ier | esr | btr | ti _ | tdt _ | tdl _ | tdh _ | ri _ | rdt _ | rdl _ | rdh _ => cases hr

/-- A register write keeps what the update of controller c keeps and, where filter registers may be written, their update
keeps too. -/
theorem keeps_writeReg {P : State → Prop} {c : Ctl} {fw : Bool}
    (hctl : ∀ s k, P s → ((s.ctl c).inv s.params → k.inv s.params) → P (s.setCtl c k))
    (hfil : ∀ s x, P s → fw = true → (s.filters.inv → x.inv) → P (s.setFilters x)) (r : Reg) (v : Word)
    (hr : r.isFilter = true → fw = true) : Cmd.Keeps P (writeReg c r v) := by
  intro s hs
  cases hf : r.isFilter with
  | false =>
    obtain ⟨k, hk, hinv⟩ := writeReg_updatesCtl c hf v s
    rw [hk]; exact hctl s k hs hinv
  | true =>
    obtain ⟨x, hx, hinv⟩ := writeReg_updatesFilters c hf v s
    rw [hx]; exact hfil s x hs (hr hf) hinv

end Sys2Proof.Machine
end

section
/-! The statements of 10_state.md: every step keeps the invariant, and a command leaves the controller it does not
name. -/

namespace Sys2Proof.Machine

open Sys2Proof.Spec

/-! ### The invariant -/

/-- The accesses of a command keep the invariant, whatever agent steps fall between them. -/
theorem accessInvariant_inv (c : Ctl) (fw : Bool) : AccessInvariant State.inv c fw where
  advance _ _ h := h
  runGap _ h := h.runGap
  writeReg := keeps_writeReg (fun _ _ h hk => h.setCtl (hk (h.ctl c))) fun _ _ h _ hx => h.setFilters (hx h.filters)
  setRes _ _ h := h
  recordFault _ _ h := h

theorem runCommand_inv {w : Word} {x : Operands} {s t : State} (h : s.inv) (ht : runCommand w x s = .next t) :
    t.inv := by
  have hbegin : (beginCommand x s).inv := h
  unfold runCommand at ht
  split at ht
  · exact (accessInvariant_inv _ _).exec ht hbegin
  · cases ht; exact hbegin

theorem runEvent_inv {e : Event} {s t : State} (h : s.inv) (ht : runEvent e s = .next t) : t.inv := by
  cases e with
  | command w x => exact runCommand_inv h ht
  | reset c => cases ht; exact h.hostReset c
  | agent a => cases ht; exact h.agentStep a

/-- A step that goes on is the wait, or the event at the head of the agenda. -/
theorem step_next_cases {s t : State} (h : step s = .next t) :
    t = s ∨ ∃ e rest, s.agenda = e :: rest ∧ runEvent e { s with agenda := rest } = .next t := by
  by_cases hf : s.fault = none
  · cases ha : s.agenda with
    | nil => rw [step_of_agenda_nil hf ha] at h; cases h; exact .inl rfl
    | cons e rest => exact .inr ⟨e, rest, rfl, step_of_agenda_cons hf ha ▸ h⟩
  · obtain ⟨f, hf⟩ := Option.ne_none_iff_exists'.mp hf
    simp [step, hf] at h

/-- Settles O10: each kind of event keeps the invariant, a command because its accesses and gaps do. -/
theorem stepKeepsInvariant : Obligations.StepKeepsInvariant := by
  intro s t hs ht
  rcases step_next_cases ht with rfl | ⟨e, rest, -, he⟩
  · exact hs
  · exact runEvent_inv (s := { s with agenda := rest }) hs he

/-! ### The isolation of the controllers -/

/-- t is s but for controller c and, where `fw`, the filter registers, and no agent step is scheduled in a gap. -/
structure Isolated (c : Ctl) (fw : Bool) (s t : State) : Prop where
  quiet : t.quiet
  other : ∀ d, d ≠ c → t.ctl d = s.ctl d
  filters : fw = false → t.filters = s.filters

/-- 10 R48, 40 R142: the accesses of a command of controller c touch c, and the filter registers only where allowed. -/
theorem accessInvariant_isolated (c : Ctl) (fw : Bool) (s : State) : AccessInvariant (Isolated c fw s) c fw where
  advance u n h := ⟨h.quiet, fun d hd => by rw [State.ctl_advance]; exact h.other d hd, h.filters⟩
  runGap u h := by rw [runGap_quiet h.quiet]; exact h
  writeReg := by
    refine keeps_writeReg (fun u k h _ => ?ctl) fun u x h hfw _ => ?filters
    case ctl =>
      refine ⟨(u.gaps_setCtl c k).trans h.quiet, fun d hd => ?_, fun hf => (u.filters_setCtl c k).trans (h.filters hf)⟩
      rw [State.ctl_setCtl_ne u k hd]
      exact h.other d hd
    case filters =>
      refine ⟨h.quiet, fun d hd => (u.ctl_setFilters x d).trans (h.other d hd), fun hf => ?_⟩
      rw [hfw] at hf
      cases hf
  setRes u r h := ⟨h.quiet, fun d hd => (u.ctl_setRes r d).trans (h.other d hd), h.filters⟩
  recordFault u f h := ⟨h.quiet, fun d hd => (ctl_recordFault f u d).trans (h.other d hd), h.filters⟩

/-- Settles O60: every access of a command keeps `Isolated`, and a quiet gap does nothing. -/
theorem instanceIsolation : Obligations.InstanceIsolation := by
  intro i s t hq ht
  have h := (accessInvariant_isolated _ _ s).exec ht ⟨hq, fun _ _ => rfl, fun _ => rfl⟩
  exact ⟨h.other, h.filters⟩

end Sys2Proof.Machine
end

section
/-! The address map of 20_memory.md: which offsets name a register, what an access answers at an offset that names
none, and which faults it can raise at one that does. -/

namespace Sys2Proof.Machine

open Sys2Proof.Spec

/-! ### The address map -/

theorem controlReg_isSome (off : Nat) : (controlReg off).isSome = true ↔ off % 4 = 0 ∧ off ≤ 0x01F := by
  unfold controlReg
  split <;> grind

theorem blockReg_isSome (k lane : Nat) :
    (blockReg k lane).isSome = true ↔ k ≤ 4 ∧ lane < 0x10 ∧ lane % 4 = 0 := by
  unfold blockReg
  split <;> grind

theorem filterReg_isSome (off : Nat) :
    (filterReg off).isSome = true ↔ off ∈ [0x200, 0x204, 0x20C, 0x214, 0x21C] := by
  unfold filterReg
  split <;> simp_all

theorem bankReg_isSome (off : Nat) :
    (bankReg off).isSome = true ↔ off % 4 = 0 ∧ 0x240 ≤ off ∧ off ≤ 0x31F := by
  unfold bankReg
  dsimp only
  split_ifs <;> simp <;> omega

/-- 20 R81: an offset names a register exactly where the address map lists it. -/
theorem regAt_isSome (c : Ctl) (off : Nat) : (regAt c off).isSome = true ↔ Mapped c off := by
  unfold regAt
  split_ifs with hctl hblk hfil
  · rw [controlReg_isSome]; simp [Mapped]; omega
  · rw [blockReg_isSome]; simp [Mapped]; omega
  · cases c with
    | primary => rw [filterReg_isSome]; simp [Mapped]; omega
    | secondary => simp [Mapped]; omega
  · cases c with
    | primary => rw [bankReg_isSome]; simp [Mapped]; omega
    | secondary => simp [Mapped]; omega

theorem regAt_unmapped {c : Ctl} {off : Nat} (h : ¬ Mapped c off) : regAt c off = none := by
  rw [← regAt_isSome] at h
  simpa using h

theorem regAt_mapped {c : Ctl} {off : Nat} (h : Mapped c off) : ∃ r, regAt c off = some r :=
  Option.isSome_iff_exists.mp ((regAt_isSome c off).mpr h)

/-! ### Accesses by offset -/

theorem memRead_unmapped {c : Ctl} {off : Nat} (h : ¬ Mapped c off) (s : State) :
    memRead c off 4 s = .error (.badOffset c off) s := by simp [memRead, regAt_unmapped h]

theorem memWrite_unmapped {c : Ctl} {off : Nat} (h : ¬ Mapped c off) (v : Word) (s : State) :
    memWrite c off 4 v s = .error (.badOffset c off) s := by simp [memWrite, regAt_unmapped h]

theorem memRead_regAt {c : Ctl} {off : Nat} {r : Reg} (h : regAt c off = some r) : memRead c off 4 = readAt c r := by
  simp [memRead, h]

theorem memWrite_regAt {c : Ctl} {off : Nat} {r : Reg} (h : regAt c off = some r) (v : Word) :
    memWrite c off 4 v = writeReg c r v := by simp [memWrite, h]

/-! ### The faults an access of a register raises -/

/-- A part of a command that never raises F_BAD_OFFSET. -/
def Cmd.NoBadOffset {α : Type} (w : Cmd α) : Prop := ∀ s s' d off, w s ≠ .error (.badOffset d off) s'

theorem Cmd.NoBadOffset.of_ok {α : Type} {w : Cmd α} (h : ∀ s, ∃ a s', w s = .ok a s') : w.NoBadOffset := by
  intro s s' d off he
  obtain ⟨a, t, ht⟩ := h s
  rw [ht] at he
  cases he

theorem readWritten_error {c : Ctl} {r : Reg} {w : Bool} {v : Word} {f : Fault}
    (h : readWritten c r w v = .error f) : f = .unwrittenRead c r.offset := by
  unfold readWritten at h
  split at h <;> cases h
  rfl

/-- 40 R145: the one fault of a register read is F_UNWRITTEN_READ. -/
theorem readReg_error {c : Ctl} {r : Reg} {s : State} {f : Fault} (h : readReg c r s = .error f) :
    f = .unwrittenRead c r.offset := by
  cases r with
  | ti _ | tdt _ | tdl _ | tdh _ | fr1 _ | fr2 _ => exact readWritten_error h
  | mcr | msr | tsr | rfr _ | ier | esr | btr | ri _ | rdt _ | rdl _ | rdh _ | fmr | fm1r | fs1r | ffa1r | fa1r =>
    cases h

theorem readAt_noBadOffset (c : Ctl) (r : Reg) : (readAt c r).NoBadOffset := by
  intro s s' d off h
  unfold readAt at h
  split at h
  case h_1 f hf => cases h; cases readReg_error hf
  case h_2 => cases h

theorem writeMcr_noBadOffset (c : Ctl) (v : Word) : (writeMcr c v).NoBadOffset := by
  intro s s' d off
  unfold writeMcr
  dsimp only
  split <;> nofun

theorem writeBtr_noBadOffset (c : Ctl) (v : Word) : (writeBtr c v).NoBadOffset := by
  intro s s' d off
  unfold writeBtr
  dsimp only
  split <;> nofun

theorem writeTi_noBadOffset (c : Ctl) (m : Fin 3) (v : Word) : (writeTi c m v).NoBadOffset := by
  intro s s' d off
  unfold writeTi
  dsimp only
  split_ifs
  · nofun
  · split <;> nofun
  · nofun

theorem writeData_noBadOffset (c : Ctl) (m : Fin 3) (f : Mailbox → Mailbox) : (writeData c m f).NoBadOffset := by
  intro s s' d off
  unfold writeData
  split <;> nofun

theorem writeBankBits_noBadOffset (o : Nat) (old v : Word) (put : Filters → Filters) :
    (writeBankBits o old v put).NoBadOffset := by
  intro s s' d off
  unfold writeBankBits
  split <;> nofun

theorem writeBank_noBadOffset (o : Nat) (n : Fin 28) (put : Bank → Bank) : (writeBank o n put).NoBadOffset := by
  intro s s' d off
  unfold writeBank
  split <;> nofun

/-- 40 R133 to R142: a register's own rule raises other faults only. -/
theorem writeReg_noBadOffset (c : Ctl) (r : Reg) (v : Word) : (writeReg c r v).NoBadOffset := by
  cases r with
  | mcr => exact writeMcr_noBadOffset c v
  | btr => exact writeBtr_noBadOffset c v
  | ti m => exact writeTi_noBadOffset c m v
  | tdt m | tdl m | tdh m => dsimp only [writeReg]; exact writeData_noBadOffset c m _
  | fm1r | fs1r | ffa1r =>
    intro s
    dsimp only [writeReg, writeFm1r, writeFs1r, writeFfa1r]
    exact writeBankBits_noBadOffset _ _ v _ s
  | fr1 n | fr2 n => dsimp only [writeReg]; exact writeBank_noBadOffset _ n _
  | msr | tsr | rfr _ | ier | esr | ri _ | rdt _ | rdl _ | rdh _ | fmr | fa1r => exact .of_ok fun _ => ⟨_, _, rfl⟩

/-! ### The Fault record of a command: only its end writes it (60 R280) -/

theorem readAt_keeps_fault (c : Ctl) (r : Reg) : Cmd.Keeps (fun s => s.fault = none) (readAt c r) := by
  intro s hs
  unfold readAt
  split <;> exact hs

theorem writeReg_keeps_fault (c : Ctl) (r : Reg) (v : Word) :
    Cmd.Keeps (fun s => s.fault = none) (writeReg c r v) :=
  keeps_writeReg (fw := true) (fun s k h _ => (s.fault_setCtl c k).trans h) (fun _ _ h _ _ => h) r v fun _ => rfl

/-- A command whose one access raises no F_BAD_OFFSET does not record that fault. -/
theorem finish_fault_ne_badOffset {α : Type} {w : Cmd α} (hraise : w.NoBadOffset)
    (hkeep : Cmd.Keeps (fun s => s.fault = none) w) (f : α → Results) {s : State} (hs : s.fault = none) (d : Ctl)
    (off : Nat) : (finish ((w >>= fun a => pure (f a)) s)).fault ≠ some (.badOffset d off) := by
  have hend : (endState (w s)).fault = none := hkeep s hs
  cases h : w s with
  | ok a s' =>
    rw [h] at hend
    rw [Cmd.bind_ok h, Cmd.pure_apply]
    intro hf
    have hnone : none = some (Fault.badOffset d off) := hend.symm.trans hf
    cases hnone
  | error e s' =>
    rw [h] at hend
    rw [Cmd.bind_error h]
    show (recordFault e s').fault ≠ _
    rw [fault_recordFault, show s'.fault = none from hend]
    rintro ⟨⟩
    exact hraise s s' d off h

/-- The first fault of a run is recorded as it was raised (60 R280). -/
theorem recordFault_of_none {s : State} (h : s.fault = none) (f : Fault) :
    recordFault f s = { s with fault := some f, res := Results.absent } := by simp [recordFault, h]

/-! ### The raw accesses -/

section
variable {c : Ctl} {s : State}

theorem regRd_next (h : Ready (.regRd c) s) :
    exec (.regRd c) s = .next (finish ((memRead c s.ops.x1 4 >>= fun v => pure (Results.one v.toNat)) s)) := by
  obtain ⟨hf, hfit⟩ := h
  have h1 : s.ops.slot 1 < 2 ^ 32 := hfit 0 (by simp [slotWidths])
  refine (command_next hf _).trans ?_
  rw [Cmd.bind_ok (operand_ok h1), Operands.slot_one]

theorem regWr_next (h : Ready (.regWr c) s) :
    exec (.regWr c) s = .next (finish ((memWrite c s.ops.x1 4 (word s 2) >>= fun _ => pure Results.absent) s)) := by
  obtain ⟨hf, hfit⟩ := h
  have h1 : s.ops.slot 1 < 2 ^ 32 := hfit 0 (by simp [slotWidths])
  have h2 : s.ops.slot 2 < 2 ^ 32 := hfit 1 (by simp [slotWidths])
  refine (command_next hf _).trans ?_
  rw [Cmd.bind_ok (operand_ok h1), Cmd.bind_ok (operandWord_ok h2), Operands.slot_one]

theorem regRmw_next (h : Ready (.regRmw c) s) :
    exec (.regRmw c) s = .next (finish ((memRead c s.ops.x1 4 >>= fun old => gap >>= fun _ =>
      memWrite c s.ops.x1 4 ((old &&& ~~~word s 2) ||| word s 3) >>= fun _ => pure (Results.one old.toNat)) s)) := by
  obtain ⟨hf, hfit⟩ := h
  have h1 : s.ops.slot 1 < 2 ^ 32 := hfit 0 (by simp [slotWidths])
  have h2 : s.ops.slot 2 < 2 ^ 32 := hfit 1 (by simp [slotWidths])
  have h3 : s.ops.slot 3 < 2 ^ 32 := hfit 2 (by simp [slotWidths])
  refine (command_next hf _).trans ?_
  rw [Cmd.bind_ok (operand_ok h1), Cmd.bind_ok (operandWord_ok h2), Cmd.bind_ok (operandWord_ok h3),
    Operands.slot_one]

/-- 20 R81: the fault of the first access ends the command, with nothing changed before it. -/
theorem exec_unmapped {i : Instr} (hi : i ∈ [Instr.regRd c, .regWr c, .regRmw c]) (h : Ready i s)
    (hm : ¬ Mapped c s.ops.x1) :
    exec i s = .next { s with fault := some (.badOffset c s.ops.x1), res := Results.absent } := by
  rw [← recordFault_of_none h.1]
  simp only [List.mem_cons, List.not_mem_nil, or_false] at hi
  rcases hi with rfl | rfl | rfl
  · rw [regRd_next h, Cmd.bind_error (memRead_unmapped hm s)]; rfl
  · rw [regWr_next h, Cmd.bind_error (memWrite_unmapped hm _ s)]; rfl
  · rw [regRmw_next h, Cmd.bind_error (memRead_unmapped hm s)]; rfl

/-- 20 R81, 40 R130, R131: at a listed offset the one access is that of its register. -/
theorem exec_mapped {i : Instr} (hi : i ∈ [Instr.regRd c, .regWr c]) (h : Ready i s) (hm : Mapped c s.ops.x1) :
    ∃ t, exec i s = .next t ∧ t.fault ≠ some (.badOffset c s.ops.x1) := by
  obtain ⟨r, hr⟩ := regAt_mapped hm
  simp only [List.mem_cons, List.not_mem_nil, or_false] at hi
  rcases hi with rfl | rfl
  · refine ⟨_, regRd_next h, ?_⟩
    rw [memRead_regAt hr]
    exact finish_fault_ne_badOffset (readAt_noBadOffset c r) (readAt_keeps_fault c r) _ h.1 _ _
  · refine ⟨_, regWr_next h, ?_⟩
    rw [memWrite_regAt hr]
    exact finish_fault_ne_badOffset (writeReg_noBadOffset c r _) (writeReg_keeps_fault c r _) _ h.1 _ _

end

/-- Settles O16: the table of 20 R81 is `regAt`'s, and the register's own rules raise other faults. -/
theorem unmappedOffsetFaults : Obligations.UnmappedOffsetFaults := by
  intro s c
  refine ⟨fun i hi h hm => exec_unmapped hi h hm, fun i hi h hm => exec_mapped hi h hm, fun off n v hn => ?width⟩
  case width => exact ⟨memRead_width c off hn s, memWrite_width c off hn v s⟩

end Sys2Proof.Machine
end

section
/-! What the commands that write no register leave: a pure command changes nothing before its end, a command that only
reads changes the draw numbers, and the end of a command changes the result and the Fault record. -/

namespace Sys2Proof.Machine

open Sys2Proof.Spec

/-- The end of a command writes the result or the Fault record only (60 R280). -/
theorem finish_sameBlock {s : State} {o : EStateM.Result Fault State Results} (h : SameBlock s (endState o)) :
    SameBlock s (finish o) := by
  cases o with
  | ok r u => exact h
  | error f u => exact h

theorem draws_finish (o : EStateM.Result Fault State Results) : (finish o).draws = (endState o).draws := by
  cases o <;> rfl

theorem sameBlock_refl (s : State) : SameBlock s s := ⟨rfl, rfl, rfl, rfl, rfl, rfl, rfl⟩

theorem quiet_of_sameBlock {s t : State} (h : SameBlock s t) (hq : s.quiet) : t.quiet := by
  obtain ⟨-, -, -, -, -, -, hgaps⟩ := h
  exact hgaps.trans hq

/-! ### Pure commands -/

/-- A body that stays in its first state leaves the block and the draw numbers to the end of the command. -/
theorem command_frame_of_stays {body : Cmd Results} {s t : State} (hb : Cmd.Keeps (· = s) body)
    (ht : command s body = .next t) : SameBlock s t ∧ t.draws = s.draws := by
  obtain ⟨-, rfl⟩ := command_next_inv ht
  have hstay : endState (body s) = s := hb s rfl
  refine ⟨finish_sameBlock ?_, (draws_finish _).trans (by rw [hstay])⟩
  rw [hstay]
  exact sameBlock_refl s

/-- 41, 42, 46: a pure command reads its operands only. -/
theorem exec_pure_frame {i : Instr} (hi : isPure i = true) {s t : State} (ht : exec i s = .next t) :
    SameBlock s t ∧ t.draws = s.draws := by
  cases i with
  | btSynth =>
    exact command_frame_of_stays (.bind .operand fun _ => .bind .operand fun _ => .bind .operand fun _ => .pure) ht
  | btFreq =>
    exact command_frame_of_stays (.bind .operand fun _ => .bind .operand fun _ => .bind .operand fun _ =>
      .bind .operand fun _ => .bind .operand fun _ => .ite .raise .pure) ht
  | fwL32 | fwM32 | idCmp | idCmps =>
    exact command_frame_of_stays (.bind .word fun _ => .bind .word fun _ => .pure) ht
  | fwL16 | fwM16 =>
    exact command_frame_of_stays (.bind .word fun _ => .bind .word fun _ => .bind .word fun _ => .bind .word fun _ =>
      .pure) ht
  | fwEnc16 | idEnc | idDec | idFields => exact command_frame_of_stays (.bind .word fun _ => .pure) ht
  | fwDec16 => exact command_frame_of_stays (.bind .operand fun _ => .pure) ht
  | idCmpm | idCmpsm =>
    exact command_frame_of_stays (.bind .word fun _ => .bind .word fun _ => .bind .word fun _ => .pure) ht
  | idMkstd | idMkext => exact command_frame_of_stays (.bind .operand fun _ => .bind .operand fun _ => .pure) ht
  | _ => cases hi

/-! ### Commands that only read -/

section
variable {s : State}

/-- 20 R86: a read changes no register, whether it gives a value or raises. -/
theorem keeps_sameBlock_read {c : Ctl} {off n : Nat} : Cmd.Keeps (SameBlock s) (memRead c off n) := by
  intro u hu
  rcases memRead_cases c off n u with ⟨v, hv⟩ | ⟨f, hf⟩
  · rw [hv]; exact hu
  · rw [hf]; exact hu

/-- A body that keeps the block leaves it to the end of the command. -/
theorem command_sameBlock {body : Cmd Results} {t : State} (hb : Cmd.Keeps (SameBlock s) body)
    (ht : command s body = .next t) : SameBlock s t := by
  obtain ⟨-, rfl⟩ := command_next_inv ht
  exact finish_sameBlock (hb s (sameBlock_refl s))

variable (hq : s.quiet)
include hq

theorem keeps_sameBlock_gap : Cmd.Keeps (SameBlock s) gap := by
  intro u hu
  rw [gap_apply, runGap_quiet (quiet_of_sameBlock hu hq)]
  exact hu

theorem keeps_sameBlock_gapBefore {gs : List IrqSource} : Cmd.Keeps (SameBlock s) (gapBefore gs) := by
  cases gs with
  | nil => exact .pure
  | cons g gs => exact keeps_sameBlock_gap hq

theorem keeps_sameBlock_irqPendLoop {c : Ctl} {k : Word} {gs : List IrqSource} {p : Word} :
    Cmd.Keeps (SameBlock s) (irqPendLoop c k gs p) := by
  induction gs generalizing p with
  | nil => exact .pure
  | cons g gs ih => exact .bind keeps_sameBlock_read fun _ => .bind (keeps_sameBlock_gapBefore hq) fun _ => ih

/-- The four reads of TX.READBACK and RX.READ, with the gaps between them. -/
theorem keeps_sameBlock_fourReads {c : Ctl} {o1 o2 o3 o4 : Nat} {f : Word → Word → Word → Word → Cmd Results}
    (hf : ∀ a b d e, Cmd.Keeps (SameBlock s) (f a b d e)) :
    Cmd.Keeps (SameBlock s) (memRead c o1 4 >>= fun a => gap >>= fun _ => memRead c o2 4 >>= fun b => gap >>= fun _ =>
      memRead c o3 4 >>= fun d => gap >>= fun _ => memRead c o4 4 >>= fun e => f a b d e) :=
  .bind keeps_sameBlock_read fun a => .bind (keeps_sameBlock_gap hq) fun _ => .bind keeps_sameBlock_read fun b =>
  .bind (keeps_sameBlock_gap hq) fun _ => .bind keeps_sameBlock_read fun d => .bind (keeps_sameBlock_gap hq) fun _ =>
  .bind keeps_sameBlock_read fun e => hf a b d e

/-- 20 R86: no write is among the accesses of these commands, and their gaps are quiet. -/
theorem exec_onlyReads_frame {i : Instr} (hi : onlyReads i = true) {t : State} (ht : exec i s = .next t) :
    SameBlock s t := by
  cases i with
  | regRd c => exact command_sameBlock (.bind .operand fun _ => .bind keeps_sameBlock_read fun _ => .pure) ht
  | btRead c | txSelect c => exact command_sameBlock (.bind keeps_sameBlock_read fun _ => .pure) ht
  | txReadback c idx =>
    exact command_sameBlock (.withMailbox fun _ => keeps_sameBlock_fourReads hq fun _ _ _ _ => .pure) ht
  | txStatus c idx => exact command_sameBlock (.withMailbox fun _ => .bind keeps_sameBlock_read fun _ => .pure) ht
  | rxRead c idx rel =>
    cases rel with
    | true => cases hi
    | false => exact command_sameBlock (.withFifo fun _ => keeps_sameBlock_fourReads hq fun _ _ _ _ => .pure) ht
  | rxCount c idx => exact command_sameBlock (.withFifo fun _ => .bind keeps_sameBlock_read fun _ => .pure) ht
  | irqPend c =>
    exact command_sameBlock (.bind .irqOperand fun _ => .bind (keeps_sameBlock_irqPendLoop hq) fun _ => .pure) ht
  | _ => cases hi

end

/-- Settles O59: a pure command stays in its state up to its end; the reads and the quiet gaps of the others
keep `SameBlock`. -/
theorem nonWritingCommandsFrame : Obligations.NonWritingCommandsFrame :=
  fun _ _ _ ht => ⟨fun hi => exec_pure_frame hi ht, fun hi hq => exec_onlyReads_frame hq hi ht⟩

end Sys2Proof.Machine
end

section
/-! The command word of 30_encoding.md: a word is its five fields, the encoder writes a command's fields there, and the
decoder reads them back. The statements about decoding follow from one: a word decodes to a command exactly where the
command is legal and the word has its fields. -/

namespace Sys2Proof

/-! ### The fields of a word -/

/-- 30 R109: OPC, INST, IDX, REL and bits 31:12 are the whole word. -/
theorem word_eq_iff_fields (w v : Word) :
    w = v ↔ w.extractLsb' 0 8 = v.extractLsb' 0 8 ∧ w.getLsbD 8 = v.getLsbD 8
      ∧ w.extractLsb' 9 2 = v.extractLsb' 9 2 ∧ w.getLsbD 11 = v.getLsbD 11
      ∧ w.extractLsb' 12 20 = v.extractLsb' 12 20 := by
  refine ⟨fun h => by simp [h], fun ⟨hopc, hinst, hidx, hrel, hzero⟩ => BitVec.eq_of_getLsbD_eq fun k hk => ?_⟩
  have field {lo len : Nat} (h : w.extractLsb' lo len = v.extractLsb' lo len) (hlo : lo ≤ k) (hhi : k < lo + len) :
      w.getLsbD k = v.getLsbD k := by
    have hbit := congrArg (·.getLsbD (k - lo)) h
    simpa [BitVec.getLsbD_extractLsb', show k - lo < len by omega, Nat.add_sub_cancel' hlo] using hbit
  rcases (by omega : k < 8 ∨ k = 8 ∨ (9 ≤ k ∧ k < 11) ∨ k = 11 ∨ 12 ≤ k) with h | rfl | h | rfl | h
  · exact field hopc (by omega) (by omega)
  · exact hinst
  · exact field hidx (by omega) (by omega)
  · exact hrel
  · exact field hzero (by omega) (by omega)

/-- A widened value has only 0 above its own width. -/
theorem extractLsb'_setWidth_of_width_le {n m : Nat} (x : BitVec n) {lo len : Nat} (h : n ≤ lo) :
    (x.setWidth m).extractLsb' lo len = 0 := by
  ext k hk
  simp [show n ≤ lo + k by omega]

/-- w has the fields of command i, each 0 where i has none, and 0 in bits 31:12 (30 R109). -/
def HasFields (w : Word) (i : Instr) : Prop :=
  w.extractLsb' 0 8 = i.opcode ∧ w.getLsbD 8 = i.instField.bit ∧ w.extractLsb' 9 2 = i.idxField
    ∧ w.getLsbD 11 = i.relField ∧ w.extractLsb' 12 20 = 0

/-- 30 R109: the encoder writes each field of the command in its place. -/
theorem hasFields_encode (i : Instr) : HasFields (encode i) i := by
  unfold encode
  refine ⟨?opc, ?inst, ?idx, ?rel, extractLsb'_setWidth_of_width_le _ (Nat.le_refl 12)⟩
  case opc => rw [BitVec.extractLsb'_setWidth_of_le (by decide), BitVec.extractLsb'_append_eq_right]
  case inst => simp only [BitVec.getLsbD_setWidth, BitVec.getLsbD_append, BitVec.getLsbD_ofBool]; rfl
  case idx =>
    rw [BitVec.extractLsb'_setWidth_of_le (by decide), BitVec.extractLsb'_append_eq_of_le (by decide),
      BitVec.extractLsb'_append_eq_of_le (by decide), BitVec.extractLsb'_append_eq_right]
  case rel => simp only [BitVec.getLsbD_setWidth, BitVec.getLsbD_append, BitVec.getLsbD_ofBool]; rfl

theorem hasFields_iff_eq_encode (w : Word) (i : Instr) : HasFields w i ↔ w = encode i := by
  obtain ⟨hopc, hinst, hidx, hrel, hzero⟩ := hasFields_encode i
  rw [word_eq_iff_fields, hopc, hinst, hidx, hrel, hzero]
  rfl

/-! ### The rows of the opcode map -/

/-- The format has an INST field (30 R112). -/
def Format.usesInst (f : Format) : Bool := f != .none

/-- The format has an IDX field (30 R112). -/
def Format.usesIdx : Format → Bool
  | .ixMailbox | .ixFifo | .ixrFifo => true
  | .none | .i => false

/-- The format has a REL field (30 R112). -/
def Format.usesRel (f : Format) : Bool := f == .ixrFifo

/-- The mask of a format has a 1 in every bit but those of the fields the format uses (30 R112). -/
theorem Format.mask_fields (f : Format) :
    f.mask.extractLsb' 0 8 = BitVec.allOnes 8 ∧ f.mask.getLsbD 8 = !f.usesInst
      ∧ f.mask.extractLsb' 9 2 = (if f.usesIdx then 0 else BitVec.allOnes 2) ∧ f.mask.getLsbD 11 = !f.usesRel
      ∧ f.mask.extractLsb' 12 20 = BitVec.allOnes 20 := by
  cases f <;> decide

/-- A bit is masked to 0 where it is 0 or its field is used. -/
theorem and_not_eq_false_iff (b uses : Bool) : (b && !uses) = false ↔ (uses = false → b = false) := by
  cases uses <;> simp

theorem and_idxMask_eq_zero_iff (idx : BitVec 2) (uses : Bool) :
    idx &&& (if uses then 0 else BitVec.allOnes 2) = 0 ↔ (uses = false → idx = 0) := by
  cases uses with
  | true => simp
  | false => rw [if_neg Bool.false_ne_true, BitVec.and_allOnes]; simp

/-- 30 R111, R112: a row matches where OPC is the row's and every bit the row does not use is 0. -/
theorem Row.matches_iff (r : Row) (w : Word) :
    r.matches w = true ↔ w.extractLsb' 0 8 = r.opc ∧ (r.format.usesInst = false → w.getLsbD 8 = false)
      ∧ (r.format.usesIdx = false → w.extractLsb' 9 2 = 0) ∧ (r.format.usesRel = false → w.getLsbD 11 = false)
      ∧ w.extractLsb' 12 20 = 0 := by
  obtain ⟨hopc, hinst, hidx, hrel, hzero⟩ := r.format.mask_fields
  have hrowOpc : (r.opc.setWidth 32).extractLsb' 0 8 = r.opc := by
    rw [BitVec.extractLsb'_setWidth_of_le (by decide), BitVec.extractLsb'_eq_self]
  have hrowBit (k : Nat) (hk : 8 ≤ k) : (r.opc.setWidth 32).getLsbD k = false := by simp [hk]
  simp only [Row.matches, beq_iff_eq, word_eq_iff_fields _ (r.opc.setWidth 32), BitVec.extractLsb'_and,
    BitVec.getLsbD_and, hopc, hinst, hidx, hrel, hzero, hrowOpc, hrowBit, BitVec.and_allOnes, and_not_eq_false_iff,
    and_idxMask_eq_zero_iff, extractLsb'_setWidth_of_width_le, Nat.le_refl, Nat.reduceLeDiff]

/-- The index check of a format, as a condition on IDX (30 R111). -/
def Format.idxOk : Format → BitVec 2 → Bool
  | .ixMailbox, idx => mailboxIdxOk idx
  | .ixFifo, idx | .ixrFifo, idx => fifoIdxOk idx
  | .none, _ | .i, _ => true

theorem Format.checkIdx_eq_none_iff (f : Format) (idx : BitVec 2) : f.checkIdx idx = Option.none ↔ f.idxOk idx = true := by
  cases f <;> simp [Format.checkIdx, Format.idxOk]

/-- A row makes commands with the row's OPC and the fields of its format, legal where the format admits the index. -/
structure Row.Makes (r : Row) : Prop where
  opcode : ∀ c idx rel, (r.make c idx rel).opcode = r.opc
  instField : ∀ c idx rel, (r.make c idx rel).instField = if r.format.usesInst then c else .primary
  idxField : ∀ c idx rel, (r.make c idx rel).idxField = if r.format.usesIdx then idx else 0
  relField : ∀ c idx rel, (r.make c idx rel).relField = (r.format.usesRel && rel)
  wf : ∀ c idx rel, (r.make c idx rel).wf = r.format.idxOk idx

/-- 30 R112: every row of the opcode map agrees with the fields of its commands. -/
theorem rows_make : ∀ r ∈ rows, r.Makes := by
  simp only [rows, rowsRegBt, rowsFwId, rowsTxRxIrq, List.forall_mem_append, List.forall_mem_cons, List.not_mem_nil,
    false_imp_iff, implies_true, and_true]
  and_intros <;>
    exact ⟨fun _ _ _ => rfl, fun _ _ _ => rfl, fun _ _ _ => rfl, fun _ _ _ => rfl, fun _ _ _ => rfl⟩

/-- Every command is made by a row, from its own fields (30 R112). -/
theorem exists_row_makes (i : Instr) : ∃ r ∈ rows, r.make i.instField i.idxField i.relField = i := by
  cases i <;> simp [rows, rowsRegBt, rowsFwId, rowsTxRxIrq, Instr.instField, Instr.idxField, Instr.relField]

/-- No two rows have one OPC (30 R112). -/
theorem row_eq_of_opc_eq {r r' : Row} (hr : r ∈ rows) (hr' : r' ∈ rows) (h : r.opc = r'.opc) : r = r' :=
  List.inj_on_of_nodup_map (f := Row.opc) (by decide) hr hr' h

/-! ### Decoding -/

@[simp] theorem bit_ctlOfBit (b : Bool) : (ctlOfBit b).bit = b := by cases b <;> rfl

@[simp] theorem bit_primary : Ctl.primary.bit = false := rfl

@[simp] theorem ctlOfBit_bit (c : Ctl) : ctlOfBit c.bit = c := by cases c <;> rfl

/-- The command a row makes of a word's INST, IDX and REL bits (30 R111). -/
def Row.makeOf (r : Row) (w : Word) : Instr := r.make (ctlOfBit (w.getLsbD 8)) (w.extractLsb' 9 2) (w.getLsbD 11)

/-- 30 R111: a row matches a word exactly where the word has the fields of the command the row makes of it. -/
theorem Row.Makes.matches_iff_hasFields {r : Row} (hr : r.Makes) (w : Word) :
    r.matches w = true ↔ HasFields w (r.makeOf w) := by
  rw [Row.matches_iff, HasFields, Row.makeOf, hr.opcode, hr.instField, hr.idxField, hr.relField]
  refine and_congr .rfl (and_congr ?instBit (and_congr ?idxBits (and_congr ?relBit .rfl)))
  case instBit => cases r.format.usesInst <;> simp
  case idxBits => cases r.format.usesIdx <;> simp
  case relBit => cases r.format.usesRel <;> simp

/-- At most one row matches a word, so the search for a row finds the one that does (30 R111). -/
theorem find?_rows_eq_some_iff (w : Word) (r : Row) :
    rows.find? (Row.matches · w) = some r ↔ r ∈ rows ∧ r.matches w = true := by
  have found {r' : Row} (h : rows.find? (Row.matches · w) = some r') : r' ∈ rows ∧ r'.matches w = true :=
    ⟨List.mem_of_find?_eq_some h, List.find?_some (p := (Row.matches · w)) h⟩
  refine ⟨found, fun ⟨hr, hm⟩ => ?_⟩
  obtain ⟨r', h⟩ := Option.isSome_iff_exists.mp (List.find?_isSome (p := (Row.matches · w)).mpr ⟨r, hr, hm⟩)
  obtain ⟨hr', hm'⟩ := found h
  have hopc : r'.opc = r.opc := ((r'.matches_iff w).mp hm').1.symm.trans ((r.matches_iff w).mp hm).1
  rw [h, row_eq_of_opc_eq hr' hr hopc]

/-- 30 R111: decoding finds the row that matches, checks IDX, and makes the row's command of the word. -/
theorem decode_eq_ok_iff_row (w : Word) (i : Instr) :
    decode w = .ok i ↔ ∃ r ∈ rows, r.matches w = true ∧ r.format.idxOk (w.extractLsb' 9 2) = true ∧ r.makeOf w = i := by
  simp only [← Format.checkIdx_eq_none_iff, ← and_assoc (a := _ ∈ _), ← find?_rows_eq_some_iff]
  unfold decode
  cases rows.find? (Row.matches · w) with
  | none => simp
  | some r => cases hc : r.format.checkIdx (w.extractLsb' 9 2) <;> simp [hc, Row.makeOf]

/-- 30 R109, R111: a word decodes to a command exactly where the command is legal and the word has its fields. -/
theorem decode_eq_ok_iff_hasFields (w : Word) (i : Instr) : decode w = .ok i ↔ i.wf = true ∧ HasFields w i := by
  rw [decode_eq_ok_iff_row]
  constructor
  · rintro ⟨r, hmem, hm, hidx, rfl⟩
    have hr := rows_make r hmem
    exact ⟨(hr.wf _ _ _).trans hidx, (hr.matches_iff_hasFields w).mp hm⟩
  · rintro ⟨hwf, hfields⟩
    obtain ⟨-, hinst, hidx, hrel, -⟩ := id hfields
    obtain ⟨r, hmem, hmake⟩ := exists_row_makes i
    have hr := rows_make r hmem
    have hof : r.makeOf w = i := by rw [Row.makeOf, hinst, hidx, hrel, ctlOfBit_bit, hmake]
    refine ⟨r, hmem, (hr.matches_iff_hasFields w).mpr (hof ▸ hfields), ?_, hof⟩
    rw [← hr.wf, ← Row.makeOf, hof, hwf]

/-- 30 R109, R111: the words that decode are the command words of the legal commands. -/
theorem decode_eq_ok_iff (w : Word) (i : Instr) : decode w = .ok i ↔ i.wf = true ∧ w = encode i := by
  rw [decode_eq_ok_iff_hasFields, hasFields_iff_eq_encode]

/-- A word that is no legal command's is refused (30 R111, R115). -/
theorem decode_error_of_ne_encode {w : Word} (h : ∀ i : Instr, i.wf = true → encode i ≠ w) :
    ∃ e, decode w = .error e := by
  cases hd : decode w with
  | error e => exact ⟨e, rfl⟩
  | ok i =>
    obtain ⟨hwf, rfl⟩ := (decode_eq_ok_iff w i).mp hd
    exact absurd rfl (h i hwf)

/-! ### The statements about decoding -/

/-- Settles O1: the command word of a command has its fields, and a word with the fields of a legal command decodes
to it. -/
theorem decodeEncodeAgree : Obligations.DecodeEncodeAgree :=
  fun i hwf => (decode_eq_ok_iff_hasFields (encode i) i).mpr ⟨hwf, hasFields_encode i⟩

/-- Settles O2: the row that matches a word makes of it the command whose fields the word has. -/
theorem decodeReadsFields : Obligations.DecodeReadsFields := decode_eq_ok_iff_hasFields

/-- Settles O3: each word is the command word of its command, bit for bit. -/
theorem specWordsDecode : Obligations.SpecWordsDecode := by
  unfold Obligations.SpecWordsDecode
  simp only [decode_eq_ok_iff]
  decide

end Sys2Proof
end

section
/-! The steps of a host command: the command its word decodes to, or the fault of a word that is no command's. -/

namespace Sys2Proof.Machine

theorem runCommand_of_decode_ok {w : Word} {i : Instr} (h : decode w = .ok i) (x : Operands) (s : State) :
    runCommand w x s = exec i (beginCommand x s) := by
  simp only [runCommand, h]

theorem runCommand_of_decode_error {w : Word} {e : Reject} (h : decode w = .error e) (x : Operands) (s : State) :
    runCommand w x s = .next (illegalWord w (beginCommand x s)) := by
  simp only [runCommand, h]

/-- Settles O4: such a word decodes to no command, and the refusal records the fault and touches nothing else. -/
theorem illegalWordsFault : Obligations.IllegalWordsFault := by
  intro s w x rest hf ha hw
  obtain ⟨e, he⟩ := decode_error_of_ne_encode hw
  refine ⟨illegalWord w (beginCommand x { s with agenda := rest }), ?step, ?fault, rfl, rfl, rfl, rfl, rfl⟩
  case step => exact (step_of_agenda_cons hf ha).trans (runCommand_of_decode_error he x _)
  case fault =>
    show some (s.fault.getD _) = _
    rw [hf]
    rfl

/-- Settles O5: the event at the head of the agenda is taken off it and its word is decoded. -/
theorem stepRunsDecodedCommand : Obligations.StepRunsDecodedCommand :=
  fun _ _ x _ _ hf ha hd => (step_of_agenda_cons hf ha).trans (runCommand_of_decode_ok hd x _)

end Sys2Proof.Machine
end

section
/-! The range checks of 30 R113: a command reads its operand slots in order before anything else, so the first slot that
does not fit ends it in the state it began in. -/

namespace Sys2Proof.Machine

open Sys2Proof.Spec

/-- c begins by checking the slots from number n on against the widths ws: where one is the first that does not fit, c
raises F_OPERAND_RANGE with it, and nothing has changed (30 R113, 60 R283). -/
def Cmd.ChecksSlots {α : Type} (n : Nat) (ws : List Nat) (c : Cmd α) : Prop :=
  ∀ (s : State) (k : Nat) (h : k < ws.length), (∀ j, ∀ hj : j < k, s.ops.slot (j + n) < 2 ^ ws[j]) →
    ¬ s.ops.slot (k + n) < 2 ^ ws[k] → c s = .error (.operandRange (k + n) (s.ops.slot (k + n))) s

section
variable {α β : Type} {n w : Nat} {ws : List Nat}

theorem Cmd.ChecksSlots.nil {c : Cmd α} : Cmd.ChecksSlots n [] c := fun _ _ h => absurd h (Nat.not_lt_zero _)

/-- A sequence checks what its first part checks. -/
theorem Cmd.ChecksSlots.bind {c : Cmd α} {f : α → Cmd β} (hc : Cmd.ChecksSlots n ws c) :
    Cmd.ChecksSlots n ws (c >>= f) :=
  fun s k h hfit hbad => Cmd.bind_error (hc s k h hfit hbad)

/-- A check of slot n, which answers where the slot fits, before checks from the next slot on. -/
theorem Cmd.ChecksSlots.cons {c : Cmd α} {f : α → Cmd β}
    (hok : ∀ s : State, s.ops.slot n < 2 ^ w → ∃ a, c s = .ok a s)
    (hbad : ∀ s : State, ¬ s.ops.slot n < 2 ^ w → c s = .error (.operandRange n (s.ops.slot n)) s)
    (hf : ∀ a, Cmd.ChecksSlots (n + 1) ws (f a)) : Cmd.ChecksSlots n (w :: ws) (c >>= f) := by
  intro s k h hfit hmis
  cases k with
  | zero =>
    rw [Nat.zero_add] at hmis ⊢
    exact Cmd.bind_error (hbad s hmis)
  | succ k =>
    have hshift (j : Nat) : j + 1 + n = j + (n + 1) := by omega
    have hfirst : s.ops.slot n < 2 ^ w := by simpa using hfit 0 (Nat.succ_pos k)
    obtain ⟨a, ha⟩ := hok s hfirst
    rw [hshift] at hmis ⊢
    rw [Cmd.bind_ok ha]
    refine hf a s k (Nat.lt_of_succ_lt_succ h) (fun j hj => ?_) hmis
    rw [← hshift]
    exact hfit (j + 1) (Nat.succ_lt_succ hj)

theorem Cmd.ChecksSlots.operand {f : Nat → Cmd β} (hf : ∀ a, Cmd.ChecksSlots (n + 1) ws (f a)) :
    Cmd.ChecksSlots n (w :: ws) (Machine.operand n w >>= f) :=
  .cons (fun _ h => ⟨_, operand_ok h⟩) (fun _ h => operand_bad h) hf

theorem Cmd.ChecksSlots.word {f : Word → Cmd β} (hf : ∀ a, Cmd.ChecksSlots (n + 1) ws (f a)) :
    Cmd.ChecksSlots n (32 :: ws) (operandWord n >>= f) :=
  .cons (fun _ h => ⟨_, operandWord_ok h⟩) (fun _ h => operandWord_bad h) hf

theorem Cmd.ChecksSlots.irqOperand : Cmd.ChecksSlots 1 [32] Machine.irqOperand := .word fun _ => .nil

end

/-- 30 R113: every command begins by checking its operand slots, in order, against the widths its rule gives them. -/
theorem exec_checksSlots (i : Instr) (s : State) :
    ∃ body, exec i s = command s body ∧ Cmd.ChecksSlots 1 (slotWidths i) body := by
  cases i with
  | regRd c => exact ⟨_, rfl, .operand fun _ => .nil⟩
  | regWr c => exact ⟨_, rfl, .operand fun _ => .word fun _ => .nil⟩
  | regRmw c => exact ⟨_, rfl, .operand fun _ => .word fun _ => .word fun _ => .nil⟩
  | btSynth => exact ⟨_, rfl, .operand fun _ => .operand fun _ => .operand fun _ => .nil⟩
  | btFreq =>
    exact ⟨_, rfl, .operand fun _ => .operand fun _ => .operand fun _ => .operand fun _ => .operand fun _ => .nil⟩
  | btApply c => exact ⟨_, rfl, .operand fun _ => .operand fun _ => .operand fun _ => .operand fun _ => .nil⟩
  | fwL32 | fwM32 | idCmp | idCmps => exact ⟨_, rfl, .word fun _ => .word fun _ => .nil⟩
  | fwL16 | fwM16 => exact ⟨_, rfl, .word fun _ => .word fun _ => .word fun _ => .word fun _ => .nil⟩
  | fwEnc16 | idEnc | idDec | idFields => exact ⟨_, rfl, .word fun _ => .nil⟩
  | fwDec16 => exact ⟨_, rfl, .operand fun _ => .nil⟩
  | idCmpm | idCmpsm => exact ⟨_, rfl, .word fun _ => .word fun _ => .word fun _ => .nil⟩
  | idMkstd | idMkext => exact ⟨_, rfl, .operand fun _ => .operand fun _ => .nil⟩
  | txSend c => exact ⟨_, rfl, .word fun _ => .operand fun _ => .operand fun _ => .nil⟩
  | irqPend c | irqClr c => exact ⟨_, rfl, .bind .irqOperand⟩
  | btRead | btClear | txSelect | txReadback | txStatus | rxRead | rxRelease | rxCount => exact ⟨_, rfl, .nil⟩

/-- Settles O9: the checks come before every access, so the fault is recorded in the state the command began in. -/
theorem operandRangeFaultsFirst : Obligations.OperandRangeFaultsFirst := by
  intro i s k h _ hf hfit hbad
  obtain ⟨body, hexec, hchecks⟩ := exec_checksSlots i s
  rw [hexec, command_error hf (hchecks s k h hfit hbad), recordFault_of_none hf]

end Sys2Proof.Machine
end

section
/-! The raw writes of 40_register_access.md: what each register's write rule does, case by case (R133 to R142), and
what REG.WR then answers. -/

namespace Sys2Proof.Machine

open Sys2Proof.Spec

/-! ### What REG.WR answers -/

section
variable {c : Ctl} {r : Reg} {s t : State}

/-- 40 R131: where the register's rule answers, REG.WR answers without a result. -/
theorem regWr_ok (h : Ready (.regWr c) s) (hoff : s.ops.x1 = r.offset) (hr : Has c r)
    (hw : writeReg c r (word s 2) s = .ok () t) : exec (.regWr c) s = .next (t.setRes Results.absent) := by
  rw [regWr_next h, hoff, memWrite_offset c r _ hr, Cmd.bind_ok hw]
  rfl

/-- 40 R131, 60 R280: where the register's rule raises, REG.WR records the fault. -/
theorem regWr_error {f : Fault} (h : Ready (.regWr c) s) (hoff : s.ops.x1 = r.offset) (hr : Has c r)
    (hw : writeReg c r (word s 2) s = .error f t) :
    exec (.regWr c) s = .next { t with fault := some f, res := Results.absent } := by
  have hkeep := writeReg_keeps_fault c r (word s 2) s h.1
  rw [hw] at hkeep
  rw [regWr_next h, hoff, memWrite_offset c r _ hr, Cmd.bind_error hw]
  exact congrArg Host.Outcome.next (recordFault_of_none hkeep f)

end

/-- The last write of a mailbox stands. -/
theorem Ctrl.setMb_setMb (k : Ctrl) (m : Fin 3) (x y : Mailbox) : (k.setMb m x).setMb m y = k.setMb m y := by
  simp only [Ctrl.setMb, Vector.set_set]

/-! ### Flags -/

/-- A flag that a 1 clears. -/
theorem and_not_eq_ite (x b : Bool) : (x && !b) = if b then false else x := by cases b <;> simp

/-- A flag that a 1 sets. -/
theorem or_eq_ite (x b : Bool) : (x || b) = if b then true else x := by cases b <;> simp

/-! ### MCR and BTR -/

/-- The Init-only check passes in Init mode, or where the checked bits do not change (40 R133, R138). -/
theorem initOnly_passes {inak : Bool} {p q : Word} (h : inak = true ∨ p = q) : ¬ (inak = false ∧ p ≠ q) := by
  rintro ⟨hi, hp⟩
  rcases h with h | h
  · rw [hi] at h; cases h
  · exact hp h

section
variable {c : Ctl} {s : State} {v : Word}

theorem writeMcr_store
    (h : (s.ctl c).msr.inak = true ∨ v &&& initOnlyMask = (s.ctl c).mcr &&& initOnlyMask)
    (hv : v.getLsbD 15 = false) :
    writeMcr c v s = .ok () (s.setCtl c { s.ctl c with mcr := v &&& mcrMask }) := by
  unfold writeMcr
  dsimp only
  rw [if_neg (initOnly_passes h), hv]
  rfl

/-- 70 R311: RESET = 1 resets the controller, whatever the write stored in it first. -/
theorem writeMcr_reset
    (h : (s.ctl c).msr.inak = true ∨ v &&& initOnlyMask = (s.ctl c).mcr &&& initOnlyMask)
    (hv : v.getLsbD 15 = true) : writeMcr c v s = .ok () (s.setCtl c Ctrl.reset) := by
  unfold writeMcr
  dsimp only
  rw [if_neg (initOnly_passes h), hv, if_pos rfl, softwareReset, State.setCtl_setCtl]

theorem writeMcr_locked (hi : (s.ctl c).msr.inak = false)
    (hv : v &&& initOnlyMask ≠ (s.ctl c).mcr &&& initOnlyMask) :
    writeMcr c v s = .error (.notInit c Reg.mcr.offset) s := if_pos ⟨hi, hv⟩

theorem writeBtr_store
    (h : (s.ctl c).msr.inak = true ∨ v &&& btrMask s.params = (s.ctl c).btr &&& btrMask s.params) :
    writeBtr c v s = .ok () (s.setCtl c { s.ctl c with btr := v &&& btrMask s.params }) :=
  if_neg (initOnly_passes h)

theorem writeBtr_locked (hi : (s.ctl c).msr.inak = false)
    (hv : v &&& btrMask s.params ≠ (s.ctl c).btr &&& btrMask s.params) :
    writeBtr c v s = .error (.notInit c Reg.btr.offset) s := if_pos ⟨hi, hv⟩

end

/-- 10 R33: BTRMASK for the default prescaler width. -/
theorem btrMask_of_brpBits {p : Params} (h : p.brpBits = 10) : btrMask p = 0xC37F03FF := by
  rw [btrMask, brpMask, h]
  decide

/-- 70 R312: the reset value of a controller is its stated one. -/
theorem Ctrl.isReset_reset : IsReset Ctrl.reset := by
  have hempties : Ctrl.reset.empties = [0, 1, 2] := by decide
  refine ⟨rfl, rfl, rfl, rfl, rfl, rfl, rfl, rfl, rfl, rfl, fun f => ?fifo, fun m => ?mailbox, fun p d hp => ?code,
    by decide, by decide, by decide, by decide⟩
  case fifo => rw [Ctrl.fifo_reset]; exact ⟨rfl, rfl, rfl, rfl⟩
  case mailbox =>
    have hlow : Ctrl.reset.low m = false := by revert m; decide
    rw [Ctrl.mb_reset]
    exact ⟨rfl, rfl, rfl, rfl, rfl, rfl, rfl, rfl, rfl, rfl, rfl, rfl, hlow⟩
  case code => simp only [Ctrl.code, hempties, hp]

/-- Settles O17: the three outcomes of R133. -/
theorem regWrMcr : Obligations.RegWrMcr := by
  intro s c h hoff
  have hr : Has c .mcr := nofun
  refine ⟨fun hinit hv => ?store, fun hinit hv => ⟨Ctrl.reset, Ctrl.isReset_reset, ?reset⟩,
    fun hi hv => ?locked⟩
  case store => exact regWr_ok (r := .mcr) h hoff hr (writeMcr_store hinit hv)
  case reset => exact regWr_ok (r := .mcr) h hoff hr (writeMcr_reset hinit hv)
  case locked => exact regWr_error (r := .mcr) h hoff hr (writeMcr_locked hi hv)

/-- Settles O21: the two outcomes of R138, and the mask at the default width. -/
theorem regWrBtr : Obligations.RegWrBtr := by
  intro s c h hoff
  have hr : Has c .btr := nofun
  refine ⟨fun hinit => ?store, fun hi hv => ?locked, btrMask_of_brpBits⟩
  case store => exact regWr_ok (r := .btr) h hoff hr (writeBtr_store hinit)
  case locked => exact regWr_error (r := .btr) h hoff hr (writeBtr_locked hi hv)

/-! ### MSR, IER, ESR -/

/-- Settles O18: these three rules raise no fault, so each write is its rule's update. -/
theorem regWrMsrIerEsr : Obligations.RegWrMsrIerEsr := by
  intro s c h
  refine ⟨fun hoff => ?msr, fun hoff => ?ier, fun hoff => ?esr⟩
  case msr =>
    simp only [← and_not_eq_ite]
    exact regWr_ok (r := .msr) h hoff nofun rfl
  case ier => exact regWr_ok (r := .ier) h hoff nofun rfl
  case esr =>
    have hmask : (0xFFFFFF8F : Word) = ~~~lecMask := by decide
    rw [hmask]
    exact regWr_ok (r := .esr) h hoff nofun rfl

/-! ### TSR -/

/-- The controller after a TSR write (40 R135), as `writeTsr` builds it. -/
def Ctrl.tsrWritten (k : Ctrl) (v : Word) : Ctrl :=
  ((k.setMb 0 ((k.mb 0).tsrWritten v 0)).setMb 1 ((k.mb 1).tsrWritten v 8)).setMb 2 ((k.mb 2).tsrWritten v 16)

theorem writeTsr_apply (c : Ctl) (v : Word) (s : State) :
    writeTsr c v s = .ok () (s.setCtl c ((s.ctl c).tsrWritten v)) := rfl

/-- Mailbox m's byte of a TSR write is the one at bit 8 m. -/
theorem Ctrl.mb_tsrWritten (k : Ctrl) (v : Word) (m : Fin 3) :
    (k.tsrWritten v).mb m = (k.mb m).tsrWritten v (8 * m.val) := by
  unfold Ctrl.tsrWritten
  match m with
  | 0 | 1 | 2 => simp

/-- 40 R135, flag by flag. -/
theorem Mailbox.tsrWritten_eq (x : Mailbox) (v : Word) (b : Nat) :
    x.tsrWritten v b = { x with
      rqcp := if v.getLsbD b then false else x.rqcp
      txok := if v.getLsbD b || v.getLsbD (b + 1) then false else x.txok
      alst := if v.getLsbD b || v.getLsbD (b + 2) then false else x.alst
      terr := if v.getLsbD b || v.getLsbD (b + 3) then false else x.terr
      abrq := if v.getLsbD (b + 7) && x.txrq then true else x.abrq } := by
  simp only [Mailbox.tsrWritten, ← and_not_eq_ite, ← or_eq_ite, Bool.not_or, Bool.and_assoc]

/-- Settles O19: the write updates each mailbox by its own byte and nothing else of the controller. -/
theorem regWrTsr : Obligations.RegWrTsr := by
  intro s c h hoff
  refine ⟨_, regWr_ok (r := .tsr) h hoff nofun (writeTsr_apply c (word s 2) s), ?fault, rfl, fun m => ?mailbox,
    ?rest, fun d hd => ?other, ?filters, ?params⟩
  case fault => rw [State.fault_setRes, State.fault_setCtl, h.1]
  case mailbox =>
    dsimp only
    rw [State.mb_def, State.ctl_setRes, State.ctl_setCtl_self, Ctrl.mb_tsrWritten]
    exact Mailbox.tsrWritten_eq _ _ _
  case rest => rw [State.ctl_setRes, State.ctl_setCtl_self]; rfl
  case other => rw [State.ctl_setRes, State.ctl_setCtl_ne s _ hd]
  case filters => rw [State.filters_setRes, State.filters_setCtl]
  case params => rw [State.params_setRes, State.params_setCtl]

/-! ### The FIFO registers -/

theorem Fifo.rfrWritten_eq (x : Fifo) (v : Word) :
    x.rfrWritten v = { x with
      full := if v.getLsbD 3 then false else x.full
      fovr := if v.getLsbD 4 then false else x.fovr
      rfom := if v.getLsbD 5 && !x.q.isEmpty then true else x.rfom } := by
  have hq : decide (0 < x.q.length) = !x.q.isEmpty := by cases x.q <;> rfl
  simp only [Fifo.rfrWritten, hq, ← and_not_eq_ite, ← or_eq_ite]

/-- The FIFO output registers (10 R22). -/
def Reg.isOutput : Reg → Bool
  | .ri _ | .rdt _ | .rdl _ | .rdh _ => true
  | _ => false

/-- 40 R141. -/
theorem writeReg_output {r : Reg} (hr : r.isOutput = true) (c : Ctl) (v : Word) (s : State) :
    writeReg c r v s = .ok () s := by
  cases r with
  | ri _ | rdt _ | rdl _ | rdh _ => rfl
  | _ => cases hr

theorem has_of_isOutput {r : Reg} (hr : r.isOutput = true) (c : Ctl) : Has c r := by
  cases r with
  | ri _ | rdt _ | rdl _ | rdh _ => nofun
  | _ => cases hr

/-- 20 R81: the offsets from 0x1B0 to 0x1CC are those of the FIFO output registers. -/
theorem exists_output_offset {off : Nat} (hlo : 0x1B0 ≤ off) (hhi : off ≤ 0x1CC) (hal : off % 4 = 0) :
    ∃ r : Reg, r.isOutput = true ∧ off = r.offset := by
  let f : Fin 2 := ⟨(off - 0x1B0) / 0x10, by omega⟩
  have hf : f.val = (off - 0x1B0) / 0x10 := rfl
  have hlane : off % 0x10 = 0 ∨ off % 0x10 = 4 ∨ off % 0x10 = 8 ∨ off % 0x10 = 12 := by omega
  rcases hlane with h | h | h | h
  · exact ⟨.ri f, rfl, by rw [Reg.offset, hf]; omega⟩
  · exact ⟨.rdt f, rfl, by rw [Reg.offset, hf]; omega⟩
  · exact ⟨.rdl f, rfl, by rw [Reg.offset, hf]; omega⟩
  · exact ⟨.rdh f, rfl, by rw [Reg.offset, hf]; omega⟩

/-- Settles O20: RFfR's rule flag by flag, and the output registers' empty one. -/
theorem regWrFifo : Obligations.RegWrFifo := by
  intro s c h
  refine ⟨fun f hoff => ?rfr, fun hlo hhi hal => ?output⟩
  case rfr =>
    rw [← Fifo.rfrWritten_eq]
    exact regWr_ok (r := .rfr f) h hoff nofun rfl
  case output =>
    obtain ⟨r, hr, hoff⟩ := exists_output_offset hlo hhi hal
    exact regWr_ok h hoff (has_of_isOutput hr c) (writeReg_output hr c _ s)

/-! ### The mailbox registers -/

section
variable {c : Ctl} {m : Fin 3} {s : State} {v : Word}

theorem writeTi_busy (h : (s.mb c m).txrq = true) : writeTi c m v s = .error (.mailboxBusy c m) s := if_pos h

theorem writeData_busy (h : (s.mb c m).txrq = true) (f : Mailbox → Mailbox) :
    writeData c m f s = .error (.mailboxBusy c m) s := if_pos h

/-- The mailbox once its identifier is stored (40 R139). -/
def Mailbox.setTi (x : Mailbox) (v : Word) : Mailbox := { x with ident := v.extractLsb' 1 31, wroteTi := true }

/-- 40 R139: a request over an unwritten register raises with the identifier stored. -/
theorem writeTi_missing {r : Reg} (hx : (s.mb c m).txrq = false) (hv : v.getLsbD 0 = true)
    (hmiss : (s.mb c m).missing m = some r) :
    writeTi c m v s = .error (.unwrittenRead c r.offset) (s.setMb c m ((s.mb c m).setTi v)) := by
  have hmiss' : ((s.mb c m).setTi v).missing m = some r := hmiss
  unfold writeTi
  dsimp only
  rw [if_neg (by simp [hx]), if_pos hv]
  split
  case h_1 r' hr' => cases hmiss'.symm.trans hr'; rfl
  case h_2 hnone => cases hmiss'.symm.trans hnone

/-- 40 R139: a request that lacks no register makes the mailbox pending, last in the request order. -/
theorem writeTi_requested (hx : (s.mb c m).txrq = false) (hv : v.getLsbD 0 = true)
    (hmiss : (s.mb c m).missing m = none) :
    writeTi c m v s = .ok () (s.setCtl c { (s.ctl c).setMb m ((s.mb c m).setTi v).requested with
      reqOrder := (s.ctl c).reqOrder ++ [m] }) := by
  have hmiss' : ((s.mb c m).setTi v).missing m = none := hmiss
  unfold writeTi
  dsimp only
  rw [if_neg (by simp [hx]), if_pos hv]
  split
  case h_1 r hr => cases hmiss'.symm.trans hr
  case h_2 =>
    rw [State.setMb_def, State.ctl_setCtl_self, State.setCtl_setCtl, Ctrl.setMb_setMb]
    rfl

end

section
variable {x : Mailbox} (m : Fin 3)

theorem Mailbox.missing_tdt (h : x.wroteTdt = false) : x.missing m = some (.tdt m) := by simp [Mailbox.missing, h]

theorem Mailbox.missing_tdl (ht : x.wroteTdt = true) (h : 0 < nbytes x.dlc ∧ x.wroteTdl = false) :
    x.missing m = some (.tdl m) := by simp [Mailbox.missing, ht, h]

theorem Mailbox.missing_tdh (ht : x.wroteTdt = true) (hl : ¬ (0 < nbytes x.dlc ∧ x.wroteTdl = false))
    (h : 4 < nbytes x.dlc ∧ x.wroteTdh = false) : x.missing m = some (.tdh m) := by
  simp [Mailbox.missing, ht, hl, h]

theorem Mailbox.missing_none (ht : x.wroteTdt = true) (hl : ¬ (0 < nbytes x.dlc ∧ x.wroteTdl = false))
    (hh : ¬ (4 < nbytes x.dlc ∧ x.wroteTdh = false)) : x.missing m = none := by
  simp [Mailbox.missing, ht, hl, hh]

end

/-- Settles O22: busy, stored, or requested; a request raises at the first register it lacks (`Mailbox.missing`). -/
theorem regWrTi : Obligations.RegWrTi := by
  intro s c m h hoff x x' needTdl needTdh faults
  have hr : Has c (.ti m) := nofun
  have hlacks : x.txrq = false → (word s 2).getLsbD 0 = true → ∀ r : Reg, x.missing m = some r →
      faults (.unwrittenRead c r.offset) := fun hx hv _ hmiss =>
    regWr_error (r := .ti m) h hoff hr (writeTi_missing hx hv hmiss)
  refine ⟨fun hx => ?busy, fun hx hv => ?stored, fun hx hv => ⟨fun ht => ?tdt, fun ht hl => ?tdl,
    fun ht hl hh => ?tdh, fun ht hl hh => ?requested⟩⟩
  case busy => exact regWr_error (r := .ti m) h hoff hr (writeTi_busy hx)
  case stored => exact regWr_ok (r := .ti m) h hoff hr (writeTi_store rfl hx hv)
  case tdt => exact hlacks hx hv _ (Mailbox.missing_tdt m ht)
  case tdl => exact hlacks hx hv _ (Mailbox.missing_tdl m ht hl)
  case tdh => exact hlacks hx hv _ (Mailbox.missing_tdh m ht hl hh)
  case requested => exact regWr_ok (r := .ti m) h hoff hr (writeTi_requested hx hv (Mailbox.missing_none m ht hl hh))

/-- Settles O23: a pending mailbox is busy at each of the three registers, an empty one stores the word's fields. -/
theorem regWrMailboxData : Obligations.RegWrMailboxData := by
  intro s c m h x v
  refine ⟨fun off hmem hoff hx => ?busy, fun hx => ⟨fun hoff => ?tdt, fun hoff => ?tdl, fun hoff => ?tdh⟩⟩
  case busy =>
    simp only [List.mem_cons, List.not_mem_nil, or_false] at hmem
    rcases hmem with rfl | rfl | rfl
    · exact regWr_error (r := .tdt m) h hoff nofun (writeData_busy hx fun y => y.setTdt v)
    · exact regWr_error (r := .tdl m) h hoff nofun (writeData_busy hx fun y => y.setTdl v)
    · exact regWr_error (r := .tdh m) h hoff nofun (writeData_busy hx fun y => y.setTdh v)
  case tdt => exact regWr_ok (r := .tdt m) h hoff nofun (writeData_ok rfl hx fun y => y.setTdt v)
  case tdl => exact regWr_ok (r := .tdl m) h hoff nofun (writeData_ok rfl hx fun y => y.setTdl v)
  case tdh => exact regWr_ok (r := .tdh m) h hoff nofun (writeData_ok rfl hx fun y => y.setTdh v)

/-! ### The filter registers -/

section
variable {r : Reg} {s : State} (h : Ready (.regWr .primary) s) (hoff : s.ops.x1 = r.offset)
include h hoff

/-- 40 R142: the filter-locked fault of a raw write names the offset accessed. -/
theorem regWr_locked (hw : writeReg .primary r (word s 2) s = .error (.filterLocked r.offset) s) :
    exec (.regWr .primary) s = .next { s with fault := some (.filterLocked s.ops.x1), res := Results.absent } := by
  rw [hoff]
  exact regWr_error h hoff (fun _ => rfl) hw

/-- 40 R142, for FM1R, FS1R and FFA1R: filter-init mode, and no active bank changes. -/
theorem regWr_bankBits {old : Word} {put : Filters → Filters}
    (hw : writeReg .primary r (word s 2) s = writeBankBits r.offset old (word s 2) put s) :
    let frozen := s.filters.finit = false ∨ (word s 2 ^^^ old) &&& bankMask &&& s.filters.fa1r ≠ 0
    (frozen → exec (.regWr .primary) s =
        .next { s with fault := some (.filterLocked s.ops.x1), res := Results.absent })
      ∧ (¬ frozen → exec (.regWr .primary) s = .next { s with filters := put s.filters, res := Results.absent }) :=
  ⟨fun hfrozen => regWr_locked h hoff (hw.trans (if_pos hfrozen)),
    fun hfree => regWr_ok h hoff (fun _ => rfl) (hw.trans (if_neg hfree))⟩

/-- 40 R142, for FnR1 and FnR2: filter-init mode, and the bank inactive. -/
theorem regWr_bank {n : Fin 28} {put : Bank → Bank}
    (hw : writeReg .primary r (word s 2) s = writeBank r.offset n put s) :
    let shut := s.filters.finit = false ∨ s.filters.active n = true
    (shut → exec (.regWr .primary) s =
        .next { s with fault := some (.filterLocked s.ops.x1), res := Results.absent })
      ∧ (¬ shut → exec (.regWr .primary) s =
        .next { s with filters := s.filters.setBank n (put (s.filters.bank n)), res := Results.absent }) :=
  ⟨fun hshut => regWr_locked h hoff (hw.trans (if_pos hshut)),
    fun hopen => regWr_ok h hoff (fun _ => rfl) (hw.trans (if_neg hopen))⟩

end

/-- Settles O24: the rule of each filter register of controller 0, and the map of controller 1, which has none. -/
theorem regWrFilters : Obligations.RegWrFilters := by
  refine ⟨fun s h hge => ?secondary, fun s h => ?primary⟩
  case secondary =>
    have hunmapped : ¬ Mapped .secondary s.ops.x1 := by simp [Mapped]; omega
    exact exec_unmapped (by simp) h hunmapped
  case primary =>
    intro v x stores locked frozen
    refine ⟨fun hoff => ?fmr, fun hoff => ?fa1r, fun hoff => ?fm1r, fun hoff => ?fs1r, fun hoff => ?ffa1r,
      fun n => ?bank⟩
    case fmr => exact regWr_ok (r := .fmr) h hoff (fun _ => rfl) rfl
    case fa1r => exact regWr_ok (r := .fa1r) h hoff (fun _ => rfl) rfl
    case fm1r =>
      exact regWr_bankBits (r := .fm1r) (old := x.fm1r) (put := fun y => { y with fm1r := v &&& bankMask }) h hoff rfl
    case fs1r =>
      exact regWr_bankBits (r := .fs1r) (old := x.fs1r) (put := fun y => { y with fs1r := v &&& bankMask }) h hoff rfl
    case ffa1r =>
      exact regWr_bankBits (r := .ffa1r) (old := x.ffa1r) (put := fun y => { y with ffa1r := v &&& bankMask })
        h hoff rfl
    case bank =>
      refine ⟨fun hoff => ?r1, fun hoff => ?r2⟩
      case r1 => exact regWr_bank (r := .fr1 n) (put := fun b => { b with r1 := v, wrote1 := true }) h hoff rfl
      case r2 => exact regWr_bank (r := .fr2 n) (put := fun b => { b with r2 := v, wrote2 := true }) h hoff rfl

end Sys2Proof.Machine
end

section
/-! The raw reads of 40_register_access.md: the value a specified register gives (R143, R144), and the fault of an
unwritten one (R145), in REG.RD and REG.RMW. -/

namespace Sys2Proof.Machine

open Sys2Proof.Spec

/-! ### The bits of a read value -/

/-- A defined bit reads as stored. -/
theorem getLsbD_overlay_of_mem {mask v : Word} {k : Nat} (h : mask.getLsbD k = true) (d : BitVec 64) :
    (overlay mask v d).getLsbD k = v.getLsbD k := by rw [getLsbD_overlay, if_pos h]

/-- ABRQm and LOWm stand where 10 R26 puts them. -/
theorem tsrWord_abrq_low (r : Ctrl) (p : Params) (d : BitVec 64) (m : Fin 3) :
    (r.tsrWord p d).getLsbD (8 * m.val + 7) = (r.mb m).abrq
    ∧ (r.tsrWord p d).getLsbD (29 + m.val) = r.low m := by
  match m with
  | 0 | 1 | 2 =>
    rw [tsrWord_getLsbD _ _ _ _ (by decide), tsrWord_getLsbD _ _ _ _ (by decide)]
    simp only [tsrBits_getLsbD]
    simp [code_testBit]

/-! ### The mailbox CODE names -/

/-- The empty mailboxes are listed lowest first. -/
theorem txrq_of_lt_head_empties {r : Ctrl} {a : Fin 3} {l : List (Fin 3)} (h : r.empties = a :: l) {q : Fin 3}
    (hq : q < a) : (r.mb q).txrq = true := by
  have hsorted : (a :: l).Pairwise (· < ·) := h ▸ List.Pairwise.filter _ (by decide : mailboxes.Pairwise (· < ·))
  by_contra hne
  have hmem : q ∈ a :: l := h ▸ (mem_empties r q).mpr (Bool.eq_false_of_not_eq_true hne)
  rcases List.mem_cons.mp hmem with rfl | hl
  · exact lt_irrefl q hq
  · exact lt_asymm hq (List.rel_of_pairwise_cons hsorted hl)

/-- 10 R28: under LowestIndex CODE names the lowest empty mailbox. -/
theorem code_lowestIndex {r : Ctrl} {p : Params} (hp : p.codePolicy = .lowestIndex) (d : BitVec 64)
    {q : Fin 3} (hq : q < r.code p d) (h : ∃ m, (r.mb m).txrq = false) : (r.mb q).txrq = true := by
  obtain ⟨m, hm⟩ := h
  rw [← mem_empties] at hm
  unfold Ctrl.code at hq
  cases he : r.empties with
  | nil => rw [he] at hm; cases hm
  | cons a l =>
    simp only [he, hp] at hq
    exact txrq_of_lt_head_empties he hq

/-- 10 R28: with every mailbox pending, CODE names the one of lowest priority. -/
theorem code_full {r : Ctrl} (h : ∀ m, (r.mb m).txrq = true) (p : Params) (d : BitVec 64) :
    r.code p d = r.lowestPriority := by
  have hnil : r.empties = [] := by
    refine List.eq_nil_iff_forall_not_mem.mpr fun m hm => ?_
    rw [mem_empties, h m] at hm
    cases hm
  simp only [Ctrl.code, hnil]

/-! ### The value of each register -/

section
variable {s : State} {c : Ctl}

theorem readsAs_msr (d : BitVec 64) : ReadsAs s c (overlay msrMask (s.ctl c).msr.word d) .msr := by
  have hbits := msrWord_getLsbD (s.ctl c).msr
  refine ⟨?_, ?_, ?_, ?_, ?_⟩ <;> rw [getLsbD_overlay_of_mem (by decide), hbits] <;> simp

theorem readsAs_rfr (f : Fin 2) (d : BitVec 64) :
    ReadsAs s c (overlay rfrMask ((s.ctl c).fifo f).word d) (.rfr f) := by
  obtain ⟨hfmp, hfull, hfovr, hrfom⟩ := fifoWord_fields ((s.ctl c).fifo f)
  refine ⟨?_, ?_, ?_, ?_⟩
  · rw [extract_overlay 0 2 (by decide), hfmp]; rfl
  · rw [getLsbD_overlay_of_mem (by decide), hfull]; rfl
  · rw [getLsbD_overlay_of_mem (by decide), hfovr]; rfl
  · rw [getLsbD_overlay_of_mem (by decide), hrfom]; rfl

/-- 10 R26 to R29: the flags by their bits, CODE by the mailbox it names. -/
theorem readsAs_tsr (d d' : BitVec 64) :
    ReadsAs s c (overlay tsrMask ((s.ctl c).tsrWord s.params d') d) .tsr := by
  have hcode : ((overlay tsrMask ((s.ctl c).tsrWord s.params d') d).extractLsb' 24 2).toNat
      = ((s.ctl c).code s.params d').val := tsrCode_read _ _ _ _
  refine ⟨fun m => ?flags, fun hempty => ?empty, fun hfull => ?full⟩
  case flags =>
    obtain ⟨htme, hrqcp, htxok, halst, hterr⟩ := tsrWord_flags (s.ctl c) s.params d' m
    obtain ⟨habrq, hlow⟩ := tsrWord_abrq_low (s.ctl c) s.params d' m
    have hmask : ∀ m : Fin 3, ∀ k ∈ [8 * m.val, 8 * m.val + 1, 8 * m.val + 2, 8 * m.val + 3, 8 * m.val + 7,
        26 + m.val, 29 + m.val], tsrMask.getLsbD k = true := by decide
    have hdef (k : Nat) (hk : k ∈ _) := getLsbD_overlay_of_mem (v := (s.ctl c).tsrWord s.params d') (hmask m k hk) d
    refine ⟨(hdef _ ?_).trans hrqcp, (hdef _ ?_).trans htxok, (hdef _ ?_).trans halst, (hdef _ ?_).trans hterr,
      (hdef _ ?_).trans habrq, (hdef _ ?_).trans htme, (hdef _ ?_).trans hlow⟩ <;> simp
  case empty =>
    exact ⟨_, code_empty _ _ d' hempty, hcode, fun hp q hq => code_lowestIndex hp d' hq hempty⟩
  case full => rw [hcode, code_full hfull]

/-- A field above the low part of a word. -/
theorem extract_append_high {n m : Nat} (x : BitVec n) (y : BitVec m) (k len : Nat) :
    (x ++ y).extractLsb' (m + k) len = x.extractLsb' k len := by
  rw [BitVec.extractLsb'_append_eq_of_le (Nat.le_add_right m k), Nat.add_sub_cancel_left]

/-- A bit above the low part of a word. -/
theorem getLsbD_append_high {n m : Nat} (x : BitVec n) (y : BitVec m) (k : Nat) :
    (x ++ y).getLsbD (m + k) = x.getLsbD k := by
  rw [BitVec.getLsbD_append, if_neg (Nat.not_lt.mpr (Nat.le_add_right m k)), Nat.add_sub_cancel_left]

theorem tiWord_fields (x : Mailbox) : x.tiWord.extractLsb' 1 31 = x.ident ∧ x.tiWord.getLsbD 0 = x.txrq :=
  ⟨BitVec.extractLsb'_append_eq_left, BitVec.getLsbD_append.trans (by simp)⟩

theorem tdtWord_fields (x : Mailbox) (d : BitVec 64) :
    (x.tdtWord d).extractLsb' 0 4 = x.dlc ∧ (x.tdtWord d).getLsbD 8 = x.tgt
      ∧ ∀ y, x.time = some y → (x.tdtWord d).extractLsb' 16 16 = y := by
  unfold Mailbox.tdtWord
  refine ⟨?dlc, ?tgt, fun y hy => ?time⟩
  case dlc =>
    rw [extract_overlay 0 4 (by decide)]
    exact BitVec.extractLsb'_append_eq_right
  case tgt =>
    rw [getLsbD_overlay_of_mem (by decide)]
    refine (getLsbD_append_high _ x.dlc 4).trans ((getLsbD_append_high _ (0 : BitVec 4) 0).trans ?_)
    exact BitVec.getLsbD_append.trans (by simp)
  case time =>
    rw [extract_overlay 16 16 (by decide), hy, Option.getD_some]
    exact (extract_append_high _ x.dlc 12 16).trans ((extract_append_high _ (0 : BitVec 4) 8 16).trans
      ((extract_append_high _ (BitVec.ofBool x.tgt) 7 16).trans BitVec.extractLsb'_append_eq_left))

theorem riWord_ident (e : Entry) (d : BitVec 64) : (e.riWord d).extractLsb' 1 31 = e.rir.extractLsb' 1 31 :=
  extract_overlay 1 31 (by decide) d

theorem rdtWord_fields (e : Entry) (d : BitVec 64) :
    (e.rdtWord d).extractLsb' 0 4 = e.dlc ∧ (e.rdtWord d).extractLsb' 8 8 = e.fmi
      ∧ (e.rdtWord d).extractLsb' 16 16 = e.time := by
  unfold Entry.rdtWord
  rw [extract_overlay 0 4 (by decide), extract_overlay 8 8 (by decide), extract_overlay 16 16 (by decide)]
  refine ⟨BitVec.extractLsb'_append_eq_right, ?fmi, ?time⟩
  case fmi =>
    exact (extract_append_high _ e.dlc 4 8).trans ((extract_append_high _ (0 : BitVec 4) 0 8).trans
      BitVec.extractLsb'_append_eq_right)
  case time =>
    exact (extract_append_high _ e.dlc 12 16).trans ((extract_append_high _ (0 : BitVec 4) 8 16).trans
      BitVec.extractLsb'_append_eq_left)

/-- 40 R144: a FIFO that shows an entry gives that entry's field. -/
theorem readOutput_of_shows {x : Fifo} {e : Entry} (h : Shows x e) (view : Entry → Word) (d : BitVec 64) :
    readOutput x view d = view e := by
  obtain ⟨hrfom, hhead⟩ := h
  simp [readOutput, Fifo.shown, hrfom, hhead]

/-- 40 R143, R144: a specified register gives a value, and its defined bits are the register's. -/
theorem readReg_specified {r : Reg} (h : Specified s c r) : ∃ v, readReg c r s = .ok v ∧ ReadsAs s c v r := by
  cases r with
  | mcr => exact ⟨_, rfl, (overlay_and (by decide) _).trans (by rw [BitVec.and_assoc]; rfl)⟩
  | msr => exact ⟨_, rfl, readsAs_msr _⟩
  | tsr => exact ⟨_, rfl, readsAs_tsr _ _⟩
  | rfr f => exact ⟨_, rfl, readsAs_rfr f _⟩
  | ier | esr | btr | fmr | fm1r | fs1r | ffa1r | fa1r => exact ⟨_, rfl, overlay_and BitVec.and_self _⟩
  | ti m => exact ⟨_, if_pos h, tiWord_fields _⟩
  | tdt m => exact ⟨_, if_pos h, tdtWord_fields _ _⟩
  | tdl m | tdh m | fr1 n | fr2 n => exact ⟨_, if_pos h, rfl⟩
  | ri f =>
    refine ⟨_, rfl, fun e he => ?_⟩
    rw [← State.fifo_def, readOutput_of_shows he, riWord_ident]
  | rdt f =>
    refine ⟨_, rfl, fun e he => ?_⟩
    rw [← State.fifo_def, readOutput_of_shows he]
    exact rdtWord_fields e _
  | rdl f | rdh f => exact ⟨_, rfl, fun e he => readOutput_of_shows he _ _⟩

/-- 40 R145: an unwritten register gives none. -/
theorem readReg_unspecified {r : Reg} (h : ¬ Specified s c r) :
    readReg c r s = .error (.unwrittenRead c r.offset) := by
  cases r with
  | ti _ | tdt _ | tdl _ | tdh _ | fr1 _ | fr2 _ => exact if_neg h
  | _ => exact absurd trivial h

end

/-! ### REG.RD -/

section
variable {c : Ctl} {r : Reg} {s : State}

theorem Reg.offset_lt (r : Reg) : r.offset < 2 ^ 32 := by
  cases r <;> simp only [Reg.offset] <;> omega

theorem ready_regRd (hf : s.fault = none) (hoff : s.ops.x1 < 2 ^ 32) : Ready (.regRd c) s := by
  refine ⟨hf, fun k hk => ?_⟩
  obtain rfl : k = 0 := by simpa [slotWidths] using hk
  exact hoff

/-- 40 R130: REG.RD answers the value of its one read. -/
theorem regRd_ok {v : Word} (h : Ready (.regRd c) s) (hread : memRead c s.ops.x1 4 s = .ok v (s.advance 2)) :
    exec (.regRd c) s = .next ((s.advance 2).setRes (Results.one v.toNat)) := by
  rw [regRd_next h, Cmd.bind_ok hread]
  rfl

/-- Settles O14: the register is specified, so its read gives a value (`readReg_specified`). -/
theorem regRdReadsRegister : Obligations.RegRdReadsRegister := by
  intro s c r hf hr hspec hoff
  obtain ⟨v, hv, hreads⟩ := readReg_specified hspec
  have hread : memRead c s.ops.x1 4 s = .ok v (s.advance 2) := by
    rw [hoff, memRead_offset c r hr]
    exact readAt_ok hv
  exact ⟨v, ⟨s.draws + 2, regRd_ok (ready_regRd hf (hoff ▸ r.offset_lt)) hread⟩, hreads⟩

/-- 40 R130, R132: a read that raises ends REG.RD and REG.RMW with nothing changed before it. -/
theorem exec_read_raises {i : Instr} {f : Fault} (hi : i ∈ [Instr.regRd c, .regRmw c]) (h : Ready i s)
    (hread : memRead c s.ops.x1 4 s = .error f s) :
    exec i s = .next { s with fault := some f, res := Results.absent } := by
  rw [← recordFault_of_none h.1]
  simp only [List.mem_cons, List.not_mem_nil, or_false] at hi
  rcases hi with rfl | rfl
  · rw [regRd_next h, Cmd.bind_error hread]; rfl
  · rw [regRmw_next h, Cmd.bind_error hread]; rfl

end

/-- Settles O15: the read of an unwritten register raises (`readReg_unspecified`). -/
theorem regRdUnwrittenFaults : Obligations.RegRdUnwrittenFaults := by
  intro s c r hr hspec hoff i hi h
  refine exec_read_raises hi h ?_
  rw [hoff, memRead_offset c r hr]
  simp only [readAt, readReg_unspecified hspec]

end Sys2Proof.Machine
end

section
/-! REG.RMW (40 R132): a read, a gap, and a write of the value read with bits cleared and set. The register rules
do not see the operand and result records, so the write is the one REG.WR makes. -/

namespace Sys2Proof.Machine

open Sys2Proof.Spec

/-! ### The records and the register rules -/

/-- The state with other operand and result records. -/
def State.withRecords (s : State) (x : Operands) (y : Results) : State := { s with ops := x, res := y }

/-- The outcome of a part of a command, with other operand and result records. -/
def withRecords {α : Type} (x : Operands) (y : Results) :
    EStateM.Result Fault State α → EStateM.Result Fault State α
  | .ok a s => .ok a (s.withRecords x y)
  | .error f s => .error f (s.withRecords x y)

/-- The part of a command does the same whatever the records hold, and leaves them. -/
def Cmd.IgnoresRecords {α : Type} (w : Cmd α) : Prop :=
  ∀ s x y, w (s.withRecords x y) = withRecords x y (w s)

theorem ctl_withRecords (s : State) (x : Operands) (y : Results) (c : Ctl) : (s.withRecords x y).ctl c = s.ctl c := by
  cases c <;> rfl

theorem setCtl_withRecords (s : State) (x : Operands) (y : Results) (c : Ctl) (k : Ctrl) :
    (s.withRecords x y).setCtl c k = (s.setCtl c k).withRecords x y := by cases c <;> rfl

theorem mb_withRecords (s : State) (x : Operands) (y : Results) (c : Ctl) (m : Fin 3) :
    (s.withRecords x y).mb c m = s.mb c m := by rw [State.mb_def, ctl_withRecords, State.mb_def]

theorem setMb_withRecords (s : State) (x : Operands) (y : Results) (c : Ctl) (m : Fin 3) (b : Mailbox) :
    (s.withRecords x y).setMb c m b = (s.setMb c m b).withRecords x y := by
  rw [State.setMb_def, ctl_withRecords, setCtl_withRecords, State.setMb_def]

theorem filters_withRecords (s : State) (x : Operands) (y : Results) : (s.withRecords x y).filters = s.filters := rfl

theorem params_withRecords (s : State) (x : Operands) (y : Results) : (s.withRecords x y).params = s.params := rfl

theorem writeMcr_ignoresRecords (c : Ctl) (v : Word) : (writeMcr c v).IgnoresRecords := by
  intro s x y
  unfold writeMcr
  simp only [ctl_withRecords, setCtl_withRecords, softwareReset]
  split_ifs <;> rfl

theorem writeBtr_ignoresRecords (c : Ctl) (v : Word) : (writeBtr c v).IgnoresRecords := by
  intro s x y
  unfold writeBtr
  simp only [ctl_withRecords, setCtl_withRecords, params_withRecords]
  split_ifs <;> rfl

theorem writeTi_ignoresRecords (c : Ctl) (m : Fin 3) (v : Word) : (writeTi c m v).IgnoresRecords := by
  intro s x y
  have hmb := mb_withRecords s x y c m
  cases hx : (s.mb c m).txrq with
  | true => rw [writeTi_busy hx, writeTi_busy (hmb ▸ hx)]; rfl
  | false =>
    cases hv : v.getLsbD 0 with
    | false => rw [writeTi_store rfl hx hv, writeTi_store hmb hx hv, setMb_withRecords]; rfl
    | true =>
      cases hmiss : (s.mb c m).missing m with
      | some r =>
        rw [writeTi_missing hx hv hmiss, writeTi_missing (hmb ▸ hx) hv (hmb ▸ hmiss), hmb, setMb_withRecords]
        rfl
      | none =>
        rw [writeTi_requested hx hv hmiss, writeTi_requested (hmb ▸ hx) hv (hmb ▸ hmiss), hmb, ctl_withRecords,
          setCtl_withRecords]
        rfl

theorem writeData_ignoresRecords (c : Ctl) (m : Fin 3) (f : Mailbox → Mailbox) :
    (writeData c m f).IgnoresRecords := by
  intro s x y
  unfold writeData
  rw [mb_withRecords, setMb_withRecords]
  split_ifs <;> rfl

theorem writeBankBits_ignoresRecords (off : Nat) (old v : Word) (put : Filters → Filters) :
    (writeBankBits off old v put).IgnoresRecords := by
  intro s x y
  unfold writeBankBits
  rw [filters_withRecords]
  split_ifs <;> rfl

theorem writeBank_ignoresRecords (off : Nat) (n : Fin 28) (put : Bank → Bank) :
    (writeBank off n put).IgnoresRecords := by
  intro s x y
  unfold writeBank
  rw [filters_withRecords]
  split_ifs <;> rfl

/-- 40 R133 to R142: a register's write rule reads and writes the block, not the records of the command. -/
theorem writeReg_ignoresRecords (c : Ctl) (r : Reg) (v : Word) : (writeReg c r v).IgnoresRecords := by
  cases r with
  | mcr => exact writeMcr_ignoresRecords c v
  | btr => exact writeBtr_ignoresRecords c v
  | ti m => exact writeTi_ignoresRecords c m v
  | tdt m | tdl m | tdh m => dsimp only [writeReg]; exact writeData_ignoresRecords c m _
  | fm1r | fs1r | ffa1r =>
    intro s x y
    dsimp only [writeReg, writeFm1r, writeFs1r, writeFfa1r]
    rw [filters_withRecords]
    exact writeBankBits_ignoresRecords _ _ v _ s x y
  | fr1 n | fr2 n => dsimp only [writeReg]; exact writeBank_ignoresRecords _ n _
  | msr | tsr | rfr _ | ier | esr => cases c <;> exact fun _ _ _ => rfl
  | ri _ | rdt _ | rdl _ | rdh _ | fmr | fa1r => exact fun _ _ _ => rfl

theorem memWrite_ignoresRecords (c : Ctl) (off n : Nat) (v : Word) : (memWrite c off n v).IgnoresRecords := by
  unfold memWrite
  split
  · split
    · exact writeReg_ignoresRecords c _ v
    · exact fun _ _ _ => rfl
  · exact fun _ _ _ => rfl

/-- A write leaves the Fault record and the operands to the command it belongs to. -/
theorem memWrite_keeps_ops (c : Ctl) (off n : Nat) (v : Word) (x : Operands) :
    Cmd.Keeps (fun s => s.fault = none ∧ s.ops = x) (memWrite c off n v) := by
  unfold memWrite
  refine .ite ?_ .raise
  split
  · refine keeps_writeReg (fw := true) (fun s k h _ => ?_) (fun _ _ h _ _ => h) _ v fun _ => rfl
    rw [State.fault_setCtl, State.ops_setCtl]
    exact h
  · exact .raise

/-! ### REG.RMW -/

section
variable {c : Ctl} {s : State}

/-- 40 R132: after a read that gives v, REG.RMW is the gap and the write. -/
theorem regRmw_afterRead {v : Word} (h : Ready (.regRmw c) s)
    (hread : memRead c s.ops.x1 4 s = .ok v (s.advance 2)) :
    exec (.regRmw c) s = .next (finish ((memWrite c s.ops.x1 4 ((v &&& ~~~word s 2) ||| word s 3) >>= fun _ =>
      pure (Results.one v.toNat)) (runGap (s.advance 2)))) := by
  rw [regRmw_next h, Cmd.bind_ok hread, Cmd.bind_ok (gap_apply _)]

/-- A REG.RD that gives the result v and no fault has read the word v. -/
theorem regRd_inv {t : State} {v : Nat} (h : Ready (.regRd c) s) (ht : exec (.regRd c) s = .next t)
    (hv : t.res.x1 = some v) (hf : t.fault = none) :
    ∃ w : Word, v = w.toNat ∧ memRead c s.ops.x1 4 s = .ok w (s.advance 2)
      ∧ t = (s.advance 2).setRes (Results.one v) := by
  rcases memRead_cases c s.ops.x1 4 s with ⟨w, hw⟩ | ⟨f, hw⟩
  · rw [regRd_ok h hw] at ht
    cases ht
    cases hv
    exact ⟨w, rfl, hw, rfl⟩
  · rw [exec_read_raises (by simp) h hw] at ht
    cases ht
    cases hf

theorem ready_regRd_of_regRmw (h : Ready (.regRmw c) s) : Ready (.regRd c) s :=
  ready_regRd h.1 (h.2 0 (by simp [slotWidths]))

/-- 40 R131: REG.WR under other records does what its write does under these. -/
theorem regWr_withRecords {x : Operands} {y : Results} (h : Ready (.regWr c) (s.withRecords x y)) :
    exec (.regWr c) (s.withRecords x y) = .next { finish ((memWrite c x.x1 4 (BitVec.ofNat 32 x.x2) >>= fun _ =>
      pure Results.absent) s) with ops := x } := by
  have hrec := memWrite_ignoresRecords c x.x1 4 (BitVec.ofNat 32 x.x2) s x y
  refine (regWr_next h).trans (congrArg Host.Outcome.next ?_)
  cases hout : memWrite c x.x1 4 (BitVec.ofNat 32 x.x2) s with
  | ok a s' =>
    rw [hout] at hrec
    rw [Cmd.bind_ok hout]
    exact congrArg finish (Cmd.bind_ok hrec)
  | error f s' =>
    rw [hout] at hrec
    rw [Cmd.bind_error hout]
    exact congrArg finish (Cmd.bind_error hrec)

/-- 60 R280: the end of a command writes its result, or none where it raised. -/
theorem finish_bind_pure {w : Cmd Unit} (hf : (endState (w s)).fault = none) (r : Results) :
    let q := finish ((w >>= fun _ => pure Results.absent) s)
    finish ((w >>= fun _ => pure r) s) = { q with res := if q.fault = none then r else Results.absent } := by
  cases hout : w s with
  | ok a s' =>
    rw [hout] at hf
    rw [Cmd.bind_ok hout, Cmd.bind_ok hout]
    exact congrArg s'.setRes (if_pos hf).symm
  | error f s' =>
    rw [Cmd.bind_error hout, Cmd.bind_error hout]
    rfl

theorem ops_finish (o : EStateM.Result Fault State Results) : (finish o).ops = (endState o).ops := by
  cases o <;> rfl

end

/-- Settles O25: with a quiet gap the write of REG.RMW is that of REG.WR but for the records, which no write sees. -/
theorem regRmwIsReadThenWrite : Obligations.RegRmwIsReadThenWrite := by
  intro s t c v h hq ht hv hf
  obtain ⟨w, rfl, hread, rfl⟩ := regRd_inv (ready_regRd_of_regRmw h) ht hv hf
  rw [BitVec.ofNat_toNat, BitVec.setWidth_eq]
  generalize hz : (w &&& ~~~word s 2) ||| word s 3 = z
  let x : Operands := { s.ops with x2 := z.toNat }
  have hready : Ready (.regWr c) ((s.advance 2).withRecords x (Results.one w.toNat)) := by
    refine ⟨h.1, fun k hk => ?_⟩
    match k, hk with
    | 0, _ => exact h.2 0 (by simp [slotWidths])
    | 1, _ => exact z.isLt
  have hword : BitVec.ofNat 32 x.x2 = z := by simp [x]
  have hkeep := memWrite_keeps_ops c x.x1 4 z s.ops
  have hstart : (s.advance 2).fault = none ∧ (s.advance 2).ops = s.ops := ⟨h.1, rfl⟩
  obtain ⟨hfault, -⟩ := hkeep (s.advance 2) hstart
  obtain ⟨-, hops⟩ := (hkeep.bind fun _ => .pure (a := Results.absent)) (s.advance 2) hstart
  have hwr := regWr_withRecords hready
  rw [hword] at hwr
  refine ⟨_, hwr, ?_⟩
  rw [regRmw_afterRead h hread, hz, runGap_quiet (s := s.advance 2) hq, finish_bind_pure hfault, ← hops,
    ← ops_finish]

/-! ### REG.RMW of IER -/

/-- The defined bits of a modified word depend on the defined bits of the word. -/
theorem modify_and_congr {v w m : Word} (h : v &&& m = w &&& m) (clr set : Word) :
    ((v &&& ~~~clr) ||| set) &&& m = ((w &&& ~~~clr) ||| set) &&& m := by
  have hcomm (a : Word) : a &&& ~~~clr &&& m = a &&& m &&& ~~~clr := by
    rw [BitVec.and_assoc, BitVec.and_comm (~~~clr), ← BitVec.and_assoc]
  rw [BitVec.and_or_distrib_right, BitVec.and_or_distrib_right, hcomm, h, hcomm]

theorem memRead_ier (c : Ctl) (s : State) :
    memRead c 0x014 4 s = .ok (overlay ierMask (s.ctl c).ier (Config.draw s.draws)) (s.advance 2) :=
  (congrFun (memRead_offset c .ier nofun) s).trans (readAt_ok rfl)

theorem memWrite_ier (c : Ctl) (v : Word) (s : State) :
    memWrite c 0x014 4 v s = .ok () (s.setCtl c { s.ctl c with ier := v &&& ierMask }) :=
  congrFun (memWrite_offset c .ier v nofun) s

/-- Settles O26: neither access of IER raises, and the write stores the defined bits of the modified word. -/
theorem regRmwIer : Obligations.RegRmwIer := by
  intro s c h hoff
  let u := runGap (s.advance 2)
  let v := overlay ierMask (s.ctl c).ier (Config.draw s.draws)
  let k : Ctrl := { u.ctl c with ier := ((v &&& ~~~word s 2) ||| word s 3) &&& ierMask }
  let t := (u.setCtl c k).setRes (Results.one v.toNat)
  have hv : v &&& ierMask = (s.ctl c).ier &&& ierMask := overlay_and BitVec.and_self _
  have hexec : exec (.regRmw c) s = .next t := by
    have hread := memRead_ier c s
    rw [← hoff] at hread
    rw [regRmw_afterRead h hread, hoff, Cmd.bind_ok (memWrite_ier c _ _)]
    rfl
  have hself : t.ctl c = k := by rw [State.ctl_setRes, State.ctl_setCtl_self]
  have hother : ∀ d, d ≠ c → t.ctl d = u.ctl d := fun d hd => by
    rw [State.ctl_setRes, State.ctl_setCtl_ne u k hd]
  refine ⟨t, v, hexec, ?fault, rfl, hv, ?ier, ?btr, ?filters, ?params, ⟨?self, hother⟩, fun hq => ?quiet⟩
  case fault => simp [t, u, h.1]
  case ier => rw [hself]; exact modify_and_congr hv _ _
  case btr => rw [hself]; simp [k, u]
  case filters => simp [t, u]
  case params => simp [t, u]
  case self => rw [hself]
  case quiet =>
    have hu : ∀ d, u.ctl d = s.ctl d := fun d => by
      simp only [u, runGap_quiet (s := s.advance 2) hq, State.ctl_advance]
    refine ⟨?_, fun d hd => (hother d hd).trans (hu d)⟩
    rw [hself, ← hu c]

end Sys2Proof.Machine
end

section
/-! The pure bit-timing commands BT.SYNTH and BT.FREQ (41 R151 to R153): the search stops at the first split on its path
whose quanta divide q0, the descriptor that gives, and what BT.FREQ makes of it. -/

namespace Sys2Proof.Machine

open Sys2Proof.Spec

/-! ### The path of the search (41 R152) -/

/-- The time quanta of split k on the path (41 R150). -/
abbrev synthQuanta (sp k : Nat) : Nat := 1 + (synthSplit sp k).1 + (synthSplit sp k).2

/-- Neither segment of split k is 0. -/
abbrev SynthLive (sp k : Nat) : Prop := (synthSplit sp k).1 ≠ 0 ∧ (synthSplit sp k).2 ≠ 0

section
variable {q0 sp k : Nat}

theorem synthSplit_succ (sp k : Nat) :
    synthSplit sp (k + 1) = synthNext sp (synthSplit sp k).1 (synthSplit sp k).2 := rfl

/-- A pass of the loop takes one quantum from one of two nonzero segments. -/
theorem synthNext_add {ts1 ts2 : Nat} (h : ts1 ≠ 0 ∧ ts2 ≠ 0) :
    (synthNext sp ts1 ts2).1 + (synthNext sp ts1 ts2).2 + 1 = ts1 + ts2 := by
  unfold synthNext
  split <;> dsimp only <;> omega

theorem synthNext_le (sp ts1 ts2 : Nat) : (synthNext sp ts1 ts2).1 ≤ ts1 ∧ (synthNext sp ts1 ts2).2 ≤ ts2 := by
  unfold synthNext
  split <;> dsimp only <;> omega

/-- The path begins at 20 quanta and each split has one less. -/
theorem synthSplit_add (h : ∀ j < k, SynthLive sp j) : (synthSplit sp k).1 + (synthSplit sp k).2 + k = 19 := by
  induction k with
  | zero => rfl
  | succ k ih =>
    have hsum := ih fun j hj => h j (Nat.lt_succ_of_lt hj)
    have hstep := synthNext_add (sp := sp) (h k (Nat.lt_succ_self k))
    rw [← synthSplit_succ] at hstep
    omega

theorem synthSplit_le (sp k : Nat) : (synthSplit sp k).1 ≤ 14 ∧ (synthSplit sp k).2 ≤ 5 := by
  induction k with
  | zero => exact ⟨le_refl _, le_refl _⟩
  | succ k ih =>
    have hstep := synthNext_le sp (synthSplit sp k).1 (synthSplit sp k).2
    rw [← synthSplit_succ] at hstep
    exact ⟨hstep.1.trans ih.1, hstep.2.trans ih.2⟩

/-! ### The loop walks the path (41 R151) -/

/-- A pass that finds a divisor stops the loop. -/
theorem synthSearch_divides (n : Nat) (h : q0 % synthQuanta sp k = 0) :
    synthSearch q0 sp (n + 1) (synthSplit sp k).1 (synthSplit sp k).2 = some (synthSplit sp k) := if_pos h

/-- A pass that finds none goes to the next split, or fails where that has a zero segment. -/
theorem synthSearch_next (n : Nat) (h : q0 % synthQuanta sp k ≠ 0) :
    synthSearch q0 sp (n + 1) (synthSplit sp k).1 (synthSplit sp k).2 =
      if (synthSplit sp (k + 1)).1 = 0 ∨ (synthSplit sp (k + 1)).2 = 0 then none
      else synthSearch q0 sp n (synthSplit sp (k + 1)).1 (synthSplit sp (k + 1)).2 := if_neg h

/-- From any split up to the one at which it stops, the loop reaches that one, given the passes. -/
theorem synthSearch_of_stops (h : SynthStops q0 sp k) {n j : Nat} (hj : j ≤ k) (hn : k < n + j) :
    synthSearch q0 sp n (synthSplit sp j).1 (synthSplit sp j).2 = some (synthSplit sp k) := by
  obtain ⟨hlive, hdiv, hfirst⟩ := h
  induction n generalizing j with
  | zero => omega
  | succ n ih =>
    rcases Nat.eq_or_lt_of_le hj with rfl | hlt
    · exact synthSearch_divides n hdiv
    · rw [synthSearch_next n (hfirst j hlt), if_neg (not_or.mpr (hlive (j + 1) hlt))]
      exact ih hlt (by omega)

/-- What the loop answers from a split it has come to is a split at which it stops. -/
theorem stops_of_synthSearch {n j : Nat} {p : Nat × Nat} (hlive : ∀ i ≤ j, SynthLive sp i)
    (hfirst : ∀ i < j, q0 % synthQuanta sp i ≠ 0)
    (h : synthSearch q0 sp n (synthSplit sp j).1 (synthSplit sp j).2 = some p) :
    ∃ k, SynthStops q0 sp k ∧ p = synthSplit sp k := by
  induction n generalizing j with
  | zero => cases h
  | succ n ih =>
    by_cases hdiv : q0 % synthQuanta sp j = 0
    · rw [synthSearch_divides n hdiv] at h
      cases h
      exact ⟨j, ⟨hlive, hdiv, hfirst⟩, rfl⟩
    · rw [synthSearch_next n hdiv] at h
      split_ifs at h with hzero
      refine ih (fun i hi => ?_) (fun i hi => ?_) h
      · rcases Nat.of_le_succ hi with hi | rfl
        · exact hlive i hi
        · exact not_or.mp hzero
      · rcases Nat.lt_succ_iff_lt_or_eq.mp hi with hi | rfl
        · exact hfirst i hi
        · exact hdiv

/-- 41 R152: the loop never runs out of passes, so it answers exactly the split at which it stops. -/
theorem synthSearch_eq_some_iff {p : Nat × Nat} :
    synthSearch q0 sp 19 14 5 = some p ↔ ∃ k, SynthStops q0 sp k ∧ p = synthSplit sp k := by
  constructor
  · refine stops_of_synthSearch (j := 0) (fun i hi => ?_) nofun
    obtain rfl := Nat.le_zero.mp hi
    exact ⟨Nat.succ_ne_zero _, Nat.succ_ne_zero _⟩
  · rintro ⟨k, h, rfl⟩
    have hlive := h.1
    have hsum := synthSplit_add fun j hj => hlive j (Nat.le_of_lt hj)
    have hlast := hlive k (le_refl k)
    exact synthSearch_of_stops h (Nat.zero_le k) (by omega)

end

/-! ### BT.SYNTH -/

/-- Synthesis succeeds at split k: the search stops there and the prescaler is in its range (41 R151). -/
abbrev SynthFound (fref fbus sp k : Nat) : Prop :=
  fbus ≠ 0 ∧ SynthStops (fref / fbus) sp k ∧ 1 ≤ fref / fbus / synthQuanta sp k
    ∧ fref / fbus / synthQuanta sp k ≤ 512

/-- The descriptor of split k (41 R151). -/
def synthDesc (q0 sp k : Nat) : Desc :=
  ⟨q0 / synthQuanta sp k, (synthSplit sp k).1, (synthSplit sp k).2, min (synthSplit sp k).2 4⟩

theorem synth_eq_some_iff {fref fbus sp : Nat} {d : Desc} :
    synth fref fbus sp = some d ↔ ∃ k, SynthFound fref fbus sp k ∧ d = synthDesc (fref / fbus) sp k := by
  unfold synth
  constructor
  · intro h
    split_ifs at h with hbus
    split at h
    case h_1 => cases h
    case h_2 ts1 ts2 hsearch =>
      obtain ⟨k, hstops, hsplit⟩ := synthSearch_eq_some_iff.mp hsearch
      obtain ⟨rfl, rfl⟩ := Prod.mk.inj hsplit
      dsimp only at h
      split_ifs at h with hrange
      rw [not_or, not_lt, not_lt] at hrange
      cases h
      exact ⟨k, ⟨hbus, hstops, hrange⟩, rfl⟩
  · rintro ⟨k, ⟨hbus, hstops, hrange⟩, rfl⟩
    rw [if_neg hbus, synthSearch_eq_some_iff.mpr ⟨k, hstops, rfl⟩]
    exact if_neg (by rw [not_or, not_lt, not_lt]; exact hrange)

theorem btSynth_next {s : State} (h : Ready .btSynth s) :
    exec .btSynth s = .next (s.setRes (synthResults (synth s.ops.x1 s.ops.x2 s.ops.x3))) := by
  obtain ⟨hf, hfit⟩ := h
  have h1 : s.ops.slot 1 < 2 ^ 32 := hfit 0 (by simp [slotWidths])
  have h2 : s.ops.slot 2 < 2 ^ 32 := hfit 1 (by simp [slotWidths])
  have h3 : s.ops.slot 3 < 2 ^ 8 := hfit 2 (by simp [slotWidths])
  refine command_ok hf ?_
  rw [Cmd.bind_ok (operand_ok h1), Cmd.bind_ok (operand_ok h2), Cmd.bind_ok (operand_ok h3)]
  rfl

/-- Settles O27: the search answers the split at which it stops, and so synthesis answers that split's descriptor. -/
theorem btSynthSearch : Obligations.BtSynthSearch := by
  intro s h
  refine ⟨fun k hk => ?found, fun hno => ?fails⟩
  case found => rw [btSynth_next h, synth_eq_some_iff.mpr ⟨k, hk, rfl⟩]; rfl
  case fails =>
    have hnone : synth s.ops.x1 s.ops.x2 s.ops.x3 = none :=
      Option.eq_none_iff_forall_ne_some.mpr fun d hd =>
        let ⟨k, hk, _⟩ := synth_eq_some_iff.mp hd
        hno ⟨k, hk⟩
    rw [btSynth_next h, hnone]
    rfl

/-! ### BT.FREQ -/

/-- BT.FREQ up to its division (41 R153). -/
theorem btFreq_next {s : State} (h : Ready .btFreq s) :
    exec .btFreq s = .next (finish ((if (1 + s.ops.x3 + s.ops.x4) * s.ops.x2 = 0 then raise (.divZero s.ops.x2)
      else pure (Results.one (s.ops.x1 / ((1 + s.ops.x3 + s.ops.x4) * s.ops.x2))) : Cmd Results) s)) := by
  obtain ⟨hf, hfit⟩ := h
  have h1 : s.ops.slot 1 < 2 ^ 32 := hfit 0 (by simp [slotWidths])
  have h2 : s.ops.slot 2 < 2 ^ 32 := hfit 1 (by simp [slotWidths])
  have h3 : s.ops.slot 3 < 2 ^ 32 := hfit 2 (by simp [slotWidths])
  have h4 : s.ops.slot 4 < 2 ^ 32 := hfit 3 (by simp [slotWidths])
  have h5 : s.ops.slot 5 < 2 ^ 32 := hfit 4 (by simp [slotWidths])
  refine (command_next hf _).trans ?_
  rw [Cmd.bind_ok (operand_ok h1), Cmd.bind_ok (operand_ok h2), Cmd.bind_ok (operand_ok h3),
    Cmd.bind_ok (operand_ok h4), Cmd.bind_ok (operand_ok h5)]
  rfl

/-- Settles O28: the divisor is 0 exactly where the prescaler is. -/
theorem btFreq : Obligations.BtFreq := by
  intro s h
  refine ⟨fun hp => ?divides, fun hp => ?raises⟩
  case divides =>
    have hden : (1 + s.ops.x3 + s.ops.x4) * s.ops.x2 ≠ 0 := Nat.mul_ne_zero (by omega) hp
    rw [btFreq_next h, if_neg hden]
    rfl
  case raises =>
    rw [btFreq_next h, hp, Nat.mul_zero, if_pos rfl]
    exact congrArg Host.Outcome.next (recordFault_of_none h.1 _)

/-! ### BT.FREQ of a synthesized descriptor (41 R157) -/

/-- The rate of q0 quanta is at least the rate asked for. -/
theorem le_div_div {fref fbus : Nat} (hq : 1 ≤ fref / fbus) : fbus ≤ fref / (fref / fbus) := by
  rw [Nat.le_div_iff_mul_le hq]
  exact Nat.mul_div_le fref fbus

/-- It is the rate asked for where that divides the reference clock. -/
theorem div_div_of_dvd {fref fbus : Nat} (hq : 1 ≤ fref / fbus) (hdvd : fbus ∣ fref) : fref / (fref / fbus) = fbus := by
  refine Nat.div_div_self hdvd ?_
  rintro rfl
  rw [Nat.zero_div] at hq
  exact absurd hq (by decide)

/-- The prescaler and the quanta of a synthesized descriptor multiply to q0. -/
theorem presc_mul_quanta_of_found {fref fbus sp k : Nat} (h : SynthFound fref fbus sp k) :
    fref / fbus / synthQuanta sp k * synthQuanta sp k = fref / fbus := by
  obtain ⟨-, ⟨-, hdiv, -⟩, -⟩ := h
  exact Nat.div_mul_cancel (Nat.dvd_of_mod_eq_zero hdiv)

/-- Only success gives ok = 1, with the descriptor found. -/
theorem synthResults_ok_inv {o : Option Desc} {presc ts1 ts2 sjw : Nat}
    (h : synthResults o = ⟨some 1, some presc, some ts1, some ts2, some sjw⟩) : o = some ⟨presc, ts1, ts2, sjw⟩ := by
  cases o with
  | none => cases h
  | some d => cases h; rfl

/-- A synthesized descriptor is a legal operand record of BT.FREQ. -/
theorem ready_btFreq_of_found {s : State} {fref fbus sp k : Nat} (hf : s.fault = none) (hfref : fref < 2 ^ 32)
    (h : SynthFound fref fbus sp k) :
    let d := synthDesc (fref / fbus) sp k
    Ready .btFreq { s with ops := ⟨fref, d.presc, d.ts1, d.ts2, d.sjw⟩ } := by
  obtain ⟨-, -, -, hpresc⟩ := h
  obtain ⟨hts1, hts2⟩ := synthSplit_le sp k
  refine ⟨hf, fun j hj => ?_⟩
  match j, hj with
  | 0, _ => exact hfref
  | 1, _ => exact hpresc.trans_lt (by decide : 512 < 2 ^ 32)
  | 2, _ => exact hts1.trans_lt (by decide : 14 < 2 ^ 32)
  | 3, _ => exact hts2.trans_lt (by decide : 5 < 2 ^ 32)
  | 4, _ => exact (Nat.min_le_right _ 4).trans_lt (by decide : 4 < 2 ^ 32)

/-- 41 R157, the second part: BT.FREQ of what BT.SYNTH found. -/
theorem btFreq_of_btSynth {s t : State} {presc ts1 ts2 sjw : Nat} (h : Ready .btSynth s)
    (ht : exec .btSynth s = .next t) (hres : t.res = ⟨some 1, some presc, some ts1, some ts2, some sjw⟩) :
    let q0 := s.ops.x1 / s.ops.x2
    presc * (1 + ts1 + ts2) = q0
      ∧ ∃ u, exec .btFreq { t with ops := ⟨s.ops.x1, presc, ts1, ts2, sjw⟩ } = .next u ∧ u.fault = none
        ∧ u.res.x1 = some (s.ops.x1 / q0) ∧ s.ops.x2 ≤ s.ops.x1 / q0
        ∧ (s.ops.x2 ∣ s.ops.x1 → s.ops.x1 / q0 = s.ops.x2) := by
  rw [btSynth_next h] at ht
  cases ht
  obtain ⟨k, hfound, hd⟩ := synth_eq_some_iff.mp (synthResults_ok_inv hres)
  cases hd
  have hmul := presc_mul_quanta_of_found hfound
  have hready := ready_btFreq_of_found (s := s.setRes (synthResults (synth s.ops.x1 s.ops.x2 s.ops.x3))) h.1
    (h.2 0 (by simp [slotWidths])) hfound
  obtain ⟨-, -, hpresc, -⟩ := hfound
  have hq := hpresc.trans (Nat.div_le_self _ _)
  refine ⟨hmul, _, (btFreq _ hready).1 (Nat.ne_of_gt hpresc), h.1, ?_, le_div_div hq, div_div_of_dvd hq⟩
  exact congrArg (fun q => some (s.ops.x1 / q)) ((Nat.mul_comm _ _).trans hmul)

end Sys2Proof.Machine
end

section
/-! The fields of BTR (30 R106): the descriptor in BTR's defined bits, the word BT.APPLY writes, and that the one is read
back from the other. -/

namespace Sys2Proof.Machine

/-! ### Fields of a shifted word -/

/-- A field that a shifted word of that many bits is put into. -/
theorem extract_shiftLeft_self {lo len : Nat} (n : Nat) (h : lo + len ≤ 32) :
    (BitVec.ofNat 32 n <<< lo).extractLsb' lo len = BitVec.ofNat len n := by
  ext k hk
  have hlt : lo + k < 32 := by omega
  have hge : ¬ lo + k < lo := by omega
  have hsub : lo + k - lo = k := by omega
  rw [BitVec.getElem_extractLsb', BitVec.getLsbD_shiftLeft, hsub, BitVec.getLsbD_ofNat,
    ← BitVec.getLsbD_eq_getElem, BitVec.getLsbD_ofNat]
  simp [hlt, hge, hk, (by omega : k < 32)]

/-- A field below the shifted word. -/
theorem extract_shiftLeft_below {lo lo' len : Nat} (n : Nat) (h : lo' + len ≤ lo) :
    (BitVec.ofNat 32 n <<< lo).extractLsb' lo' len = 0 := by
  ext k hk
  rw [BitVec.getElem_extractLsb', BitVec.getLsbD_shiftLeft]
  simp [(by omega : lo' + k < lo)]

/-- A field above the shifted word. -/
theorem extract_shiftLeft_above {lo lo' len n : Nat} (hlo : lo ≤ lo') (h : n < 2 ^ (lo' - lo)) :
    (BitVec.ofNat 32 n <<< lo).extractLsb' lo' len = 0 := by
  ext k hk
  have hbit : n.testBit (lo' + k - lo) = false :=
    Nat.testBit_lt_two_pow (h.trans_le (Nat.pow_le_pow_right (by decide) (by omega)))
  rw [BitVec.getElem_extractLsb', BitVec.getLsbD_shiftLeft, BitVec.getLsbD_ofNat, hbit]
  simp

/-- A field put back in its place. -/
theorem shiftLeft_extract (v : Word) (lo len : Nat) :
    BitVec.ofNat 32 (v.extractLsb' lo len).toNat <<< lo = v &&& (BitVec.ofNat 32 (2 ^ len - 1) <<< lo) := by
  ext k hk
  simp only [← BitVec.getLsbD_eq_getElem, BitVec.getLsbD_and, BitVec.getLsbD_shiftLeft, BitVec.getLsbD_ofNat,
    BitVec.testBit_toNat, BitVec.getLsbD_extractLsb', Nat.testBit_two_pow_sub_one]
  by_cases hlo : k < lo
  · simp [hlo]
  · have hadd : lo + (k - lo) = k := by omega
    rw [hadd]
    cases v.getLsbD k <;> simp

/-! ### The masks of BTR -/

theorem and_brpMask_toNat (p : Params) (v : Word) :
    (v &&& brpMask p).toNat = v.toNat % 2 ^ min p.brpBits 16 := by
  have hlt : 2 ^ min p.brpBits 16 - 1 < 2 ^ 32 :=
    (Nat.sub_le _ _).trans_lt (Nat.pow_lt_pow_right (by decide) (by omega))
  rw [BitVec.toNat_and, brpMask, BitVec.toNat_ofNat, Nat.mod_eq_of_lt hlt, Nat.and_two_pow_sub_one_eq_mod]

theorem and_or_absorb (a b : Word) : a &&& (a ||| b) = a := by
  ext k hk
  rw [BitVec.getElem_and, BitVec.getElem_or]
  cases a[k] <;> rfl

theorem btrMask_and_brpMask (p : Params) : btrMask p &&& brpMask p = brpMask p := by
  rw [btrMask, BitVec.and_comm, BitVec.or_comm, and_or_absorb]

/-- BTRMASK is SILM and LBKM, and the timing fields. -/
theorem btrMask_eq (p : Params) : btrMask p = 0xC0000000 ||| (0x037F0000 ||| brpMask p) := by
  have hfixed : (0xC37F0000 : Word) = 0xC0000000 ||| 0x037F0000 := by decide
  rw [btrMask, hfixed, BitVec.or_assoc]

/-- SILM, LBKM, SJW, TS2 and TS1 stand in BTR whatever BRP_BITS is. -/
theorem extract_and_btrMask {lo len : Nat} (h : (0xC37F0000 : Word).extractLsb' lo len = BitVec.allOnes len) (p : Params)
    (v : Word) : (v &&& btrMask p).extractLsb' lo len = v.extractLsb' lo len := by
  rw [btrMask, BitVec.extractLsb'_and, BitVec.extractLsb'_or, h, BitVec.allOnes_or, BitVec.and_allOnes]

/-- BRP is all of BTR below TS1. -/
theorem extract_and_btrMask_low (p : Params) (v : Word) :
    ((v &&& btrMask p).extractLsb' 0 16).toNat = (v &&& brpMask p).toNat := by
  have hfixed : (0xC37F0000 : Word).extractLsb' 0 16 = 0 := by decide
  have hlt : (v &&& brpMask p).toNat < 2 ^ 16 := by
    rw [and_brpMask_toNat]
    exact (Nat.mod_lt _ (Nat.two_pow_pos _)).trans_le (Nat.pow_le_pow_right (by decide) (by omega))
  have hand : (v &&& btrMask p).extractLsb' 0 16 = (v &&& brpMask p).extractLsb' 0 16 := by
    rw [btrMask, BitVec.extractLsb'_and, BitVec.extractLsb'_or, hfixed, BitVec.extractLsb'_and]
    exact congrArg _ BitVec.zero_or
  rw [hand, BitVec.extractLsb'_toNat, Nat.shiftRight_zero, Nat.mod_eq_of_lt hlt]

/-! ### The descriptor in BTR -/

/-- The descriptor stands in the defined bits of BTR. -/
theorem descOf_and_btrMask (p : Params) (v : Word) : descOf p (v &&& btrMask p) = descOf p v := by
  simp only [descOf, extract_and_btrMask (lo := 16) (len := 4) (by decide),
    extract_and_btrMask (lo := 20) (len := 3) (by decide), extract_and_btrMask (lo := 24) (len := 2) (by decide),
    BitVec.and_assoc, btrMask_and_brpMask]

/-- A read of BTR shows the descriptor in it, whatever its undefined bits read as (20 R87). -/
theorem descOf_overlay (p : Params) (v : Word) (d : BitVec 64) : descOf p (overlay (btrMask p) v d) = descOf p v := by
  rw [← descOf_and_btrMask, overlay_and BitVec.and_self, descOf_and_btrMask]

/-- The timing fields of the descriptor of a word are that word's timing bits. -/
theorem btrTiming_descOf (p : Params) (v : Word) : btrTiming (descOf p v) = v &&& (0x037F0000 ||| brpMask p) := by
  have hfixed : (0x037F0000 : Word) = BitVec.ofNat 32 (2 ^ 2 - 1) <<< 24 ||| BitVec.ofNat 32 (2 ^ 3 - 1) <<< 20
      ||| BitVec.ofNat 32 (2 ^ 4 - 1) <<< 16 := by decide
  simp only [btrTiming, descOf, Nat.add_sub_cancel, shiftLeft_extract]
  rw [BitVec.ofNat_toNat, BitVec.setWidth_eq, hfixed]
  simp only [BitVec.and_or_distrib_left]

theorem Desc.legal_iff (d : Desc) :
    d.legal = true ↔ 1 ≤ d.presc ∧ d.presc ≤ 512 ∧ 1 ≤ d.ts1 ∧ d.ts1 ≤ 16 ∧ 1 ≤ d.ts2 ∧ d.ts2 ≤ 8 ∧ 1 ≤ d.sjw
      ∧ d.sjw ≤ 4 ∧ d.sjw ≤ d.ts2 := by simp [Desc.legal, and_assoc]

/-! ### The word BT.APPLY writes -/

/-- What BT.APPLY of d writes over the word read (41 R154). -/
def btApplyWord (old : Word) (d : Desc) : Word := (old &&& 0xC0000000) ||| btrTiming d

/-- BT.APPLY writes the same whatever the undefined bits of BTR read as. -/
theorem btApplyWord_overlay (p : Params) (v : Word) (r : BitVec 64) (d : Desc) :
    btApplyWord (overlay (btrMask p) v r) d = btApplyWord v d := by
  have hmask : (0xC0000000 : Word) &&& btrMask p = 0xC0000000 := by rw [btrMask_eq, and_or_absorb]
  rw [btApplyWord, overlay_and hmask, btApplyWord]

/-- BT.APPLY of the descriptor a word holds writes that word. -/
theorem btApplyWord_descOf (p : Params) (v : Word) : btApplyWord v (descOf p v) = v &&& btrMask p := by
  rw [btApplyWord, btrTiming_descOf, btrMask_eq, ← BitVec.and_or_distrib_left]

/-- Below SILM and LBKM the word BT.APPLY writes is the descriptor's. -/
theorem extract_btApplyWord {lo len : Nat} (h : lo + len ≤ 30) (old : Word) (d : Desc) :
    (btApplyWord old d).extractLsb' lo len = (btrTiming d).extractLsb' lo len := by
  have hkept : (0xC0000000 : Word).extractLsb' lo len = 0 := extract_shiftLeft_below 3 h
  rw [btApplyWord, BitVec.extractLsb'_or, BitVec.extractLsb'_and, hkept]
  simp

/-- The fields of a legal descriptor do not overlap (30 R106). -/
theorem btrTiming_fields {d : Desc} (h : d.legal = true) :
    (btrTiming d).extractLsb' 30 2 = 0
      ∧ (btrTiming d).extractLsb' 24 2 = BitVec.ofNat 2 (d.sjw - 1)
      ∧ (btrTiming d).extractLsb' 20 3 = BitVec.ofNat 3 (d.ts2 - 1)
      ∧ (btrTiming d).extractLsb' 16 4 = BitVec.ofNat 4 (d.ts1 - 1)
      ∧ ∀ n ≤ 16, (btrTiming d).extractLsb' 0 n = BitVec.ofNat n (d.presc - 1) := by
  obtain ⟨-, hpresc, -, hts1, -, hts2, -, hsjw, -⟩ := d.legal_iff.mp h
  have hpresc9 : d.presc - 1 < 2 ^ 9 := by omega
  have hts1' : d.ts1 - 1 < 2 ^ 4 := by omega
  have hts2' : d.ts2 - 1 < 2 ^ 3 := by omega
  have hsjw' : d.sjw - 1 < 2 ^ 2 := by omega
  have habove {n len lo lo' : Nat} (w : Nat) (hn : n < 2 ^ w) (hlo : lo + w ≤ lo') :
      (BitVec.ofNat 32 n <<< lo).extractLsb' lo' len = 0 :=
    extract_shiftLeft_above (by omega) (hn.trans_le (Nat.pow_le_pow_right (by decide) (by omega)))
  rw [btrTiming, ← BitVec.shiftLeft_zero (BitVec.ofNat 32 (d.presc - 1))]
  simp only [BitVec.extractLsb'_or]
  refine ⟨?silmLbkm, ?sjw, ?ts2, ?ts1, fun n hn => ?presc⟩
  case silmLbkm =>
    rw [habove 2 hsjw' (by decide), habove 3 hts2' (by decide), habove 4 hts1' (by decide),
      habove 9 hpresc9 (by decide)]
    rfl
  case sjw =>
    rw [extract_shiftLeft_self _ (by decide), habove 3 hts2' (by decide), habove 4 hts1' (by decide),
      habove 9 hpresc9 (by decide)]
    simp
  case ts2 =>
    rw [extract_shiftLeft_below _ (by decide), extract_shiftLeft_self _ (by decide), habove 4 hts1' (by decide),
      habove 9 hpresc9 (by decide)]
    simp
  case ts1 =>
    rw [extract_shiftLeft_below _ (by decide), extract_shiftLeft_below _ (by decide),
      extract_shiftLeft_self _ (by decide), habove 9 hpresc9 (by decide)]
    simp
  case presc =>
    rw [extract_shiftLeft_below _ (by omega), extract_shiftLeft_below _ (by omega),
      extract_shiftLeft_below _ (by omega), extract_shiftLeft_self _ (by omega)]
    simp

/-- 41 R154: SILM and LBKM stay. -/
theorem extract_btApplyWord_kept {d : Desc} (h : d.legal = true) (old : Word) :
    (btApplyWord old d).extractLsb' 30 2 = old.extractLsb' 30 2 := by
  have hkept : (0xC0000000 : Word).extractLsb' 30 2 = BitVec.allOnes 2 := by decide
  obtain ⟨htiming, -⟩ := btrTiming_fields h
  rw [btApplyWord, BitVec.extractLsb'_or, BitVec.extractLsb'_and, hkept, BitVec.and_allOnes, htiming]
  exact BitVec.or_zero

/-- 41 R157, 30 R106: a legal descriptor is read back from the word BT.APPLY writes, where BRP can hold it. -/
theorem descOf_btApplyWord {p : Params} {d : Desc} (h : d.legal = true) (hp : p.wf = true) (old : Word) :
    descOf p (btApplyWord old d) = d := by
  obtain ⟨-, hsjw, hts2, hts1, hpresc⟩ := btrTiming_fields h
  obtain ⟨hp1, hp2, ht1, ht2, hu1, hu2, hs1, hs2, -⟩ := d.legal_iff.mp h
  have hwidth : 9 ≤ min p.brpBits 16 := by
    simp only [Params.wf, Bool.and_eq_true, decide_eq_true_eq] at hp
    omega
  have hbrp : (btApplyWord old d &&& brpMask p).toNat = d.presc - 1 := by
    have hlt : d.presc - 1 < 2 ^ min p.brpBits 16 :=
      (show d.presc - 1 < 2 ^ 9 by omega).trans_le (Nat.pow_le_pow_right (by decide) hwidth)
    have hfield := extract_btApplyWord (lo := 0) (len := min p.brpBits 16) (by omega) old d
    rw [hpresc _ (Nat.min_le_right _ _)] at hfield
    have hnat := congrArg BitVec.toNat hfield
    rw [BitVec.extractLsb'_toNat, Nat.shiftRight_zero, BitVec.toNat_ofNat, Nat.mod_eq_of_lt hlt] at hnat
    rw [and_brpMask_toNat, hnat]
  simp only [descOf, extract_btApplyWord (lo := 16) (len := 4) (by decide),
    extract_btApplyWord (lo := 20) (len := 3) (by decide), extract_btApplyWord (lo := 24) (len := 2) (by decide), hbrp,
    hsjw, hts2, hts1, BitVec.toNat_ofNat]
  rw [Desc.mk.injEq]
  refine ⟨?_, ?_, ?_, ?_⟩ <;> omega

end Sys2Proof.Machine
end

section
/-! The bit-timing commands that access BTR (41 R154 to R156), whatever agent steps fall between their accesses, and the
round trip of 41 R157. -/

namespace Sys2Proof.Machine

open Sys2Proof.Spec

/-- The operands of BT.APPLY, as the descriptor they are. -/
abbrev State.descOperand (s : State) : Desc := ⟨s.ops.x1, s.ops.x2, s.ops.x3, s.ops.x4⟩

/-- A controller with the defined bits of a word in BTR. -/
def Ctrl.withBtr (k : Ctrl) (p : Params) (v : Word) : Ctrl := { k with btr := v &&& btrMask p }

/-- A word without other bits is its defined bits. -/
theorem and_eq_self_of_and_not {v m : Word} (h : v &&& ~~~m = 0) : v &&& m = v := by
  calc v &&& m = (v &&& m) ||| (v &&& ~~~m) := by rw [h]; exact BitVec.or_zero.symm
    _ = v := by rw [← BitVec.and_or_distrib_left, BitVec.or_not_self, BitVec.and_allOnes]

/-- 10 R33: storing what BTR holds changes nothing. -/
theorem Ctrl.inv.withBtr_self {p : Params} {k : Ctrl} (h : k.inv p) : k.withBtr p k.btr = k := by
  obtain ⟨-, -, -, hbtr, -⟩ := h
  rw [Ctrl.withBtr, and_eq_self_of_and_not hbtr]

theorem Ctrl.withBtr_congr {p : Params} {v w : Word} (h : v &&& btrMask p = w &&& btrMask p) (k : Ctrl) :
    k.withBtr p v = k.withBtr p w := by rw [Ctrl.withBtr, h, Ctrl.withBtr]

/-- 41 R154: BT.APPLY leaves the fields of BTR as they are exactly where they hold its descriptor already. -/
theorem btApplyWord_and_btrMask_iff {p : Params} {d : Desc} (hd : d.legal = true) (hp : p.wf = true) (b : Word) :
    btApplyWord b d &&& btrMask p = b &&& btrMask p ↔ descOf p b = d := by
  constructor
  · intro h
    calc descOf p b = descOf p (btApplyWord b d &&& btrMask p) := by rw [h, descOf_and_btrMask]
      _ = d := by rw [descOf_and_btrMask, descOf_btApplyWord hd hp]
  · rintro rfl
    rw [btApplyWord_descOf, BitVec.and_assoc, BitVec.and_self]

/-! ### BT.APPLY -/

section
variable {c : Ctl} {s : State}

theorem memRead_btr_ok (c : Ctl) (s : State) :
    memRead c 0x01C 4 s
      = .ok (overlay (btrMask s.params) (s.ctl c).btr (Config.draw s.draws)) (s.advance 2) :=
  (congrFun (memRead_btr c) s).trans (readAt_ok rfl)

/-- The gap of BT.APPLY leaves BTR to the write. -/
theorem btr_afterRead (s : State) (c : Ctl) : ((runGap (s.advance 2)).ctl c).btr = (s.ctl c).btr := by
  rw [btr_runGap, State.ctl_advance]

theorem params_afterRead (s : State) : (runGap (s.advance 2)).params = s.params := params_runGap _

/-- BT.APPLY after its operands (41 R154). -/
theorem btApply_next (h : Ready (.btApply c) s) :
    exec (.btApply c) s = .next (finish ((if s.descOperand.legal then (memRead c 0x01C 4 >>= fun old => gap >>= fun _ =>
      memWrite c 0x01C 4 (btApplyWord old s.descOperand) >>= fun _ => pure Results.absent)
      else raise (.descRange s.descOperand) : Cmd Results) s)) := by
  obtain ⟨hf, hfit⟩ := h
  have h1 : s.ops.slot 1 < 2 ^ 32 := hfit 0 (by simp [slotWidths])
  have h2 : s.ops.slot 2 < 2 ^ 32 := hfit 1 (by simp [slotWidths])
  have h3 : s.ops.slot 3 < 2 ^ 32 := hfit 2 (by simp [slotWidths])
  have h4 : s.ops.slot 4 < 2 ^ 32 := hfit 3 (by simp [slotWidths])
  refine (command_next hf _).trans ?_
  rw [Cmd.bind_ok (operand_ok h1), Cmd.bind_ok (operand_ok h2), Cmd.bind_ok (operand_ok h3),
    Cmd.bind_ok (operand_ok h4)]
  rfl

/-- 41 R154: the descriptor's own check comes before the accesses. -/
theorem btApply_illegal (h : Ready (.btApply c) s) (hd : ¬ s.descOperand.legal = true) :
    exec (.btApply c) s = .next { s with fault := some (.descRange s.descOperand), res := Results.absent } := by
  rw [btApply_next h, if_neg hd]
  exact congrArg Host.Outcome.next (recordFault_of_none h.1 _)

/-- 41 R154: BT.APPLY of a legal descriptor is a write of BTR after the gap. -/
theorem btApply_legal (h : Ready (.btApply c) s) (hd : s.descOperand.legal = true) :
    exec (.btApply c) s = .next (finish ((writeBtr c (btApplyWord (s.ctl c).btr s.descOperand) >>= fun _ =>
      pure Results.absent) (runGap (s.advance 2)))) := by
  rw [btApply_next h, if_pos hd, Cmd.bind_ok (memRead_btr_ok c s), Cmd.bind_ok (gap_apply _), btApplyWord_overlay,
    memWrite_btr]

/-- The state BT.APPLY ends in where it writes: BTR differs from what the agent steps of the gap leave. -/
def btApplied (c : Ctl) (s : State) : State :=
  let u := runGap (s.advance 2)
  (u.setCtl c ((u.ctl c).withBtr s.params (btApplyWord (s.ctl c).btr s.descOperand))).setRes Results.absent

theorem ctl_btApplied_self (c : Ctl) (s : State) :
    (btApplied c s).ctl c = ((runGap (s.advance 2)).ctl c).withBtr s.params
      (btApplyWord (s.ctl c).btr s.descOperand) := by
  rw [btApplied, State.ctl_setRes, State.ctl_setCtl_self]

theorem ctl_btApplied_ne {d : Ctl} (h : d ≠ c) (s : State) :
    (btApplied c s).ctl d = (runGap (s.advance 2)).ctl d := by
  rw [btApplied, State.ctl_setRes, State.ctl_setCtl_ne _ _ h]

theorem fault_btApplied (c : Ctl) (s : State) : (btApplied c s).fault = s.fault := by simp [btApplied]

theorem filters_btApplied (c : Ctl) (s : State) : (btApplied c s).filters = s.filters := by simp [btApplied]

theorem params_btApplied (c : Ctl) (s : State) : (btApplied c s).params = s.params := by simp [btApplied]

variable (h : Ready (.btApply c) s) (hd : s.descOperand.legal = true) (hp : s.params.wf = true)
include h hd hp

/-- 41 R154, 40 R138: in Init mode, or of the descriptor BTR holds, the write is made. -/
theorem btApply_stores
    (hw : ((runGap (s.advance 2)).ctl c).msr.inak = true ∨ descOf s.params (s.ctl c).btr = s.descOperand) :
    exec (.btApply c) s = .next (btApplied c s) := by
  have hstore := hw.imp_right (btApplyWord_and_btrMask_iff hd hp (s.ctl c).btr).mpr
  rw [← btr_afterRead s c, ← params_afterRead s] at hstore
  rw [btApply_legal h hd, ← btr_afterRead s c, Cmd.bind_ok (writeBtr_store hstore), btr_afterRead, params_afterRead]
  rfl

/-- 41 R154, 40 R138: outside Init mode another descriptor is refused. -/
theorem btApply_locked (hi : ((runGap (s.advance 2)).ctl c).msr.inak = false)
    (hw : descOf s.params (s.ctl c).btr ≠ s.descOperand) :
    exec (.btApply c) s
      = .next { runGap (s.advance 2) with fault := some (.notInit c 0x01C), res := Results.absent } := by
  have hlock := (btApplyWord_and_btrMask_iff hd hp (s.ctl c).btr).not.mpr hw
  rw [← btr_afterRead s c, ← params_afterRead s] at hlock
  rw [btApply_legal h hd, ← btr_afterRead s c, Cmd.bind_error (writeBtr_locked hi hlock)]
  exact congrArg Host.Outcome.next (recordFault_of_none ((fault_runGap (s.advance 2)).trans h.1) _)

end

/-- A BT.APPLY without a fault had a legal descriptor and made its write. -/
theorem btApply_inv {c : Ctl} {s t : State} (h : Ready (.btApply c) s) (hp : s.params.wf = true)
    (ht : exec (.btApply c) s = .next t) (hf : t.fault = none) :
    s.descOperand.legal = true ∧ t = btApplied c s := by
  by_cases hd : s.descOperand.legal = true
  · refine ⟨hd, ?_⟩
    by_cases hw : ((runGap (s.advance 2)).ctl c).msr.inak = true ∨ descOf s.params (s.ctl c).btr = s.descOperand
    · rw [btApply_stores h hd hp hw] at ht
      exact (Host.Outcome.next.inj ht).symm
    · rw [not_or] at hw
      rw [btApply_locked h hd hp (Bool.eq_false_of_not_eq_true hw.1) hw.2] at ht
      cases ht
      cases hf
  · rw [btApply_illegal h hd] at ht
    cases ht
    cases hf

/-- The descriptor BT.APPLY wrote stands in BTR. -/
theorem descOf_btApplied {c : Ctl} {s : State} (hd : s.descOperand.legal = true) (hp : s.params.wf = true) :
    descOf s.params ((btApplied c s).ctl c).btr = s.descOperand := by
  rw [ctl_btApplied_self, Ctrl.withBtr, descOf_and_btrMask, descOf_btApplyWord hd hp]

/-- A bit of a field that two words share. -/
theorem getLsbD_of_extract {v w : Word} {lo len : Nat} (h : v.extractLsb' lo len = w.extractLsb' lo len) {k : Nat}
    (hk : k < len) : v.getLsbD (lo + k) = w.getLsbD (lo + k) := by
  have hbit := congrArg (fun x => x.getLsbD k) h
  simpa [BitVec.getLsbD_extractLsb', hk] using hbit

/-- SILM and LBKM stand in BTR as before BT.APPLY. -/
theorem extract_btApplied_kept {s : State} (c : Ctl) (hd : s.descOperand.legal = true) :
    ((btApplied c s).ctl c).btr.extractLsb' 30 2 = (s.ctl c).btr.extractLsb' 30 2 := by
  rw [ctl_btApplied_self, Ctrl.withBtr, extract_and_btrMask (by decide), extract_btApplyWord_kept hd]

/-- Settles O29: the write stores a word with SILM and LBKM of the old one and the fields of the descriptor. -/
theorem btApplyWritesDescriptor : Obligations.BtApplyWritesDescriptor := by
  intro s c h hp
  refine ⟨fun hbad => ?illegal, fun hlegal hi => ?legal⟩
  case illegal => exact btApply_illegal h (s.descOperand.legal_iff.not.mpr hbad)
  case legal =>
    have hd : s.descOperand.legal = true := s.descOperand.legal_iff.mpr hlegal
    have hkept := extract_btApplied_kept c hd
    obtain ⟨hpresc, hts1, hts2, hsjw⟩ := (Desc.mk.injEq ..).mp (descOf_btApplied (c := c) hd hp)
    have hself := ctl_btApplied_self c s
    have hlow : (((btApplied c s).ctl c).btr.extractLsb' 0 16).toNat
        = (((btApplied c s).ctl c).btr &&& brpMask s.params).toNat := by
      rw [hself, Ctrl.withBtr, extract_and_btrMask_low, BitVec.and_assoc, btrMask_and_brpMask]
    refine ⟨btApplied c s, btApply_stores h hd hp (.inl hi), (fault_btApplied c s).trans h.1, rfl,
      getLsbD_of_extract hkept (k := 1) (by decide), getLsbD_of_extract hkept (k := 0) (by decide),
      Nat.eq_sub_of_add_eq hsjw, Nat.eq_sub_of_add_eq hts2, Nat.eq_sub_of_add_eq hts1,
      hlow.trans (Nat.eq_sub_of_add_eq hpresc), ?ier, filters_btApplied c s, ?self, fun e he => ctl_btApplied_ne he s,
      fun hq => ⟨?quietSelf, fun e he => ?quietOther⟩⟩
    case ier => rw [hself]; simp [Ctrl.withBtr]
    case self => rw [hself]; rfl
    case quietSelf => rw [hself, runGap_quiet (s := s.advance 2) hq, State.ctl_advance]; rfl
    case quietOther => rw [ctl_btApplied_ne he, runGap_quiet (s := s.advance 2) hq, State.ctl_advance]

/-- Without agent steps and with BTR in order, writing the descriptor it holds changes the draw numbers only. -/
theorem btApplied_self {c : Ctl} {s : State} (hq : s.quiet) (hinv : s.inv)
    (hheld : descOf s.params (s.ctl c).btr = s.descOperand) :
    btApplied c s = { s with res := Results.absent, draws := s.draws + 2 } := by
  have hsame : (s.ctl c).withBtr s.params (btApplyWord (s.ctl c).btr s.descOperand) = s.ctl c := by
    have hword : btApplyWord (s.ctl c).btr s.descOperand &&& btrMask s.params
        = (s.ctl c).btr &&& btrMask s.params := by
      rw [← hheld, btApplyWord_descOf, BitVec.and_assoc, BitVec.and_self]
    rw [Ctrl.withBtr_congr hword, (hinv.ctl c).withBtr_self]
  have hset : (s.advance 2).setCtl c (s.ctl c) = s.advance 2 := by
    rw [← State.ctl_advance s 2 c, State.setCtl_ctl]
  rw [btApplied, runGap_quiet (s := s.advance 2) hq, State.ctl_advance, hsame]
  rw [hset]
  rfl

/-- Settles O30: the write of the held descriptor stores what BTR holds; that of another one is refused. -/
theorem btApplyOutsideInit : Obligations.BtApplyOutsideInit := by
  intro s c h hp hq hinv hi d hd
  refine ⟨fun hheld => ⟨s.draws + 2, ?held⟩, fun hother => ⟨s.draws + 2, ?other⟩⟩
  case held => rw [btApply_stores h hd hp (.inr hheld), btApplied_self hq hinv hheld]
  case other =>
    have hgap : runGap (s.advance 2) = s.advance 2 := runGap_quiet hq
    have hi' : ((runGap (s.advance 2)).ctl c).msr.inak = false := by rw [hgap, State.ctl_advance, hi]
    rw [btApply_locked h hd hp hi' hother, hgap]
    rfl

/-! ### BT.READ and BT.CLEAR -/

section
variable {c : Ctl} {s : State} (hf : s.fault = none)
include hf

/-- 41 R155: BT.READ answers the descriptor in BTR. -/
theorem btRead_next :
    let d := descOf s.params (s.ctl c).btr
    exec (.btRead c) s = .next ((s.advance 2).setRes (Results.four d.presc d.ts1 d.ts2 d.sjw)) := by
  refine command_ok hf ?_
  rw [Cmd.bind_ok (memRead_btr_ok c s), descOf_overlay]
  rfl

/-- 41 R156: BT.CLEAR is a write of 0. -/
theorem btClear_next :
    exec (.btClear c) s = .next (finish ((writeBtr c 0 >>= fun _ => pure Results.absent) s)) := by
  rw [← memWrite_btr]
  exact command_next hf _

end

/-- Settles O31: BT.READ's value has the defined bits of BTR, and a write of 0 changes BTR's fields unless they are 0. -/
theorem btReadAndClear : Obligations.BtReadAndClear := by
  intro s c hf
  have hzero : (0 : Word) &&& btrMask s.params = 0 := BitVec.zero_and
  refine ⟨⟨s.draws + 2, ?read⟩, fun hinit => ?clear, fun hi hb => ?locked⟩
  case read =>
    rw [btRead_next hf, descOf, and_brpMask_toNat]
    rfl
  case clear =>
    have hstore : (s.ctl c).msr.inak = true ∨ 0 &&& btrMask s.params = (s.ctl c).btr &&& btrMask s.params :=
      hinit.imp_right fun hb => hzero.trans hb.symm
    rw [btClear_next hf, Cmd.bind_ok (writeBtr_store hstore), hzero]
    rfl
  case locked =>
    have hlock : 0 &&& btrMask s.params ≠ (s.ctl c).btr &&& btrMask s.params := fun he => hb (he.symm.trans hzero)
    rw [btClear_next hf, Cmd.bind_error (writeBtr_locked hi hlock)]
    exact congrArg Host.Outcome.next (recordFault_of_none hf _)

/-! ### The round trips -/

/-- 41 R157, the first part: BT.READ after BT.APPLY. -/
theorem btRead_of_btApply {s t : State} {c : Ctl} (h : Ready (.btApply c) s) (hp : s.params.wf = true)
    (ht : exec (.btApply c) s = .next t) (hf : t.fault = none) :
    ∃ u, exec (.btRead c) t = .next u ∧ u.fault = none
      ∧ u.res = ⟨some s.ops.x1, some s.ops.x2, some s.ops.x3, some s.ops.x4, none⟩ := by
  obtain ⟨hd, rfl⟩ := btApply_inv h hp ht hf
  refine ⟨_, btRead_next hf, hf, ?_⟩
  rw [params_btApplied, descOf_btApplied hd hp]
  rfl

/-- Settles O32: BT.APPLY leaves its descriptor in BTR, and a synthesized descriptor has presc · qpb = q0. -/
theorem timingRoundTrips : Obligations.TimingRoundTrips :=
  ⟨fun _ _ _ h hp ht hf => btRead_of_btApply h hp ht hf, fun _ _ _ _ _ _ h ht hres => btFreq_of_btSynth h ht hres⟩

end Sys2Proof.Machine
end

section
/-! The filter words (42 R170 to R177): the fields of a MOBID and of its canonical form (30 R100, R103), the compact
form (30 R105), and the six commands. -/

namespace Sys2Proof.Machine

open Sys2Proof.Spec

/-! ### The fields of a canonical MOBID -/

/-- A field of one bit is that bit. -/
theorem extract_one {w : Nat} (x : BitVec w) (k : Nat) : x.extractLsb' k 1 = BitVec.ofBool (x.getLsbD k) := by
  ext j hj
  obtain rfl : j = 0 := by omega
  simp

/-- A field that a mask keeps. -/
theorem extract_and_ones {w lo len : Nat} {k : BitVec w} (h : k.extractLsb' lo len = BitVec.allOnes len)
    (x : BitVec w) : (x &&& k).extractLsb' lo len = x.extractLsb' lo len := by
  rw [BitVec.extractLsb'_and, h, BitVec.and_allOnes]

/-- A field that a mask clears. -/
theorem extract_and_zero {w lo len : Nat} {k : BitVec w} (h : k.extractLsb' lo len = 0) (x : BitVec w) :
    (x &&& k).extractLsb' lo len = 0 := by
  rw [BitVec.extractLsb'_and, h]
  exact BitVec.and_zero

/-- 30 R103, 46 R257: the canonical form keeps what a comparison with the MOBID looks at. -/
theorem canon_eq_and_sel (m : Word) : canon m = m &&& sel m := (apply_ite (m &&& ·) ..).symm

/-- A field of STD and RTR is kept (30 R103). -/
theorem extract_canon_of_std {lo len : Nat} (hfull : fullMask.extractLsb' lo len = BitVec.allOnes len)
    (hstd : stdMask.extractLsb' lo len = BitVec.allOnes len) (m : Word) :
    (canon m).extractLsb' lo len = m.extractLsb' lo len := by
  have hsel : (sel m).extractLsb' lo len = BitVec.allOnes len := by
    unfold sel
    split
    · exact hfull
    · exact hstd
  rw [canon_eq_and_sel, extract_and_ones hsel]

/-- A field of EXT is kept in an extended MOBID and cleared in a standard one (30 R103). -/
theorem extract_canon_of_ext {lo len : Nat} (hfull : fullMask.extractLsb' lo len = BitVec.allOnes len)
    (hstd : stdMask.extractLsb' lo len = 0) (m : Word) :
    (canon m).extractLsb' lo len = if m.getLsbD 2 then m.extractLsb' lo len else 0 := by
  rw [canon_eq_and_sel, sel]
  split
  · exact extract_and_ones hfull m
  · exact extract_and_zero hstd m

@[simp] theorem canon_std (m : Word) : (canon m).extractLsb' 21 11 = m.extractLsb' 21 11 :=
  extract_canon_of_std (by decide) (by decide) m

/-- EXT[17:15], the part of EXT that the compact form carries. -/
@[simp] theorem canon_extHigh (m : Word) :
    (canon m).extractLsb' 18 3 = if m.getLsbD 2 then m.extractLsb' 18 3 else 0 :=
  extract_canon_of_ext (by decide) (by decide) m

/-- EXT[14:0], the part of EXT that the compact form loses. -/
@[simp] theorem canon_extLow (m : Word) :
    (canon m).extractLsb' 3 15 = if m.getLsbD 2 then m.extractLsb' 3 15 else 0 :=
  extract_canon_of_ext (by decide) (by decide) m

theorem canon_ide (m : Word) : (canon m).getLsbD 2 = m.getLsbD 2 := by
  unfold canon
  split
  · simp
  · simp_all

theorem canon_rtr (m : Word) : (canon m).getLsbD 1 = m.getLsbD 1 := by
  unfold canon
  split <;> simp

/-- Clearing bit 0 first does not change the canonical form (42 R177, 46 R256). -/
theorem canon_and_fullMask (m : Word) : canon (m &&& fullMask) = canon m := by
  have hide : (m &&& fullMask).getLsbD 2 = m.getLsbD 2 := by simp [fullMask]
  have hsel : fullMask &&& sel m = sel m := by
    unfold sel
    split <;> decide
  rw [canon_eq_and_sel, sel, hide, ← sel, BitVec.and_assoc, hsel, canon_eq_and_sel]

/-! ### The MOBID of a compact form's fields -/

/-- The MOBID with EXT[14:0] and bit 0 clear that has these fields (42 R171). -/
def mobidOfCompact (std : BitVec 11) (ext : BitVec 3) (ide rtr : Bool) : Word :=
  std ++ ext ++ (0 : BitVec 15) ++ BitVec.ofBool ide ++ BitVec.ofBool rtr ++ (0 : BitVec 1)

/-- A MOBID is its fields, EXT in its two parts (30 R100). -/
theorem append_mobid_fields (v : Word) :
    v.extractLsb' 21 11 ++ v.extractLsb' 18 3 ++ v.extractLsb' 3 15 ++ v.extractLsb' 2 1 ++ v.extractLsb' 1 1
      ++ v.extractLsb' 0 1 = v := by
  have join (hi lo : Nat) {len len' : Nat} (h : hi = lo + len) :
      v.extractLsb' hi len' ++ v.extractLsb' lo len = v.extractLsb' lo (len' + len) :=
    BitVec.extractLsb'_append_extractLsb'_eq_extractLsb' h
  rw [join 21 18 rfl, join 18 3 rfl, join 3 2 rfl, join 2 1 rfl, join 1 0 rfl]
  exact BitVec.extractLsb'_eq_self

theorem eq_mobidOfCompact {v : Word} (hext : v.extractLsb' 3 15 = 0) (hbit0 : v.getLsbD 0 = false) :
    v = mobidOfCompact (v.extractLsb' 21 11) (v.extractLsb' 18 3) (v.getLsbD 2) (v.getLsbD 1) := by
  conv_lhs => rw [← append_mobid_fields v, hext, extract_one v 2, extract_one v 1, extract_one v 0, hbit0]
  rfl

/-- The lowest bit of a word that ends in it. -/
theorem getLsbD_append_ofBool {n : Nat} (x : BitVec n) (b : Bool) : (x ++ BitVec.ofBool b).getLsbD 0 = b := by
  rw [BitVec.getLsbD_append, if_pos Nat.one_pos, BitVec.getLsbD_ofBool, decide_eq_true rfl, Bool.true_and]

section
variable (std : BitVec 11) (ext : BitVec 3) (ide rtr : Bool)

theorem mobidOfCompact_std : (mobidOfCompact std ext ide rtr).extractLsb' 21 11 = std :=
  (extract_append_high _ _ 20 11).trans <| (extract_append_high _ _ 19 11).trans <|
    (extract_append_high _ _ 18 11).trans <| (extract_append_high _ _ 3 11).trans BitVec.extractLsb'_append_eq_left

theorem mobidOfCompact_extHigh : (mobidOfCompact std ext ide rtr).extractLsb' 18 3 = ext :=
  (extract_append_high _ _ 17 3).trans <| (extract_append_high _ _ 16 3).trans <|
    (extract_append_high _ _ 15 3).trans <| (extract_append_high _ _ 0 3).trans BitVec.extractLsb'_append_eq_right

theorem mobidOfCompact_extLow : (mobidOfCompact std ext ide rtr).extractLsb' 3 15 = 0 :=
  (extract_append_high _ _ 2 15).trans <| (extract_append_high _ _ 1 15).trans <|
    (extract_append_high _ _ 0 15).trans BitVec.extractLsb'_append_eq_right

theorem mobidOfCompact_ide : (mobidOfCompact std ext ide rtr).getLsbD 2 = ide :=
  (getLsbD_append_high _ _ 1).trans <| (getLsbD_append_high _ _ 0).trans <| getLsbD_append_ofBool _ _

theorem mobidOfCompact_rtr : (mobidOfCompact std ext ide rtr).getLsbD 1 = rtr :=
  (getLsbD_append_high _ _ 0).trans <| getLsbD_append_ofBool _ _

/-- 42 R171, 30 R103: canonical, it loses EXT[17:15] where it is standard. -/
theorem canon_mobidOfCompact :
    canon (mobidOfCompact std ext ide rtr) = mobidOfCompact std (if ide then ext else 0) ide rtr := by
  have hlow : (canon (mobidOfCompact std ext ide rtr)).extractLsb' 3 15 = 0 := by
    rw [canon_extLow, mobidOfCompact_extLow, ite_self]
  rw [eq_mobidOfCompact hlow (canon_bit0 _), canon_std, canon_extHigh, canon_ide, canon_rtr, mobidOfCompact_std,
    mobidOfCompact_extHigh, mobidOfCompact_ide, mobidOfCompact_rtr]

end

/-- 42 R177: a canonical MOBID with EXT[14:0] cleared. -/
theorem canon_clear_extLow (m : Word) :
    canon m &&& ~~~(0x0003FFF8 : Word) = mobidOfCompact (m.extractLsb' 21 11)
      (if m.getLsbD 2 then m.extractLsb' 18 3 else 0) (m.getLsbD 2) (m.getLsbD 1) := by
  have hstd : (~~~(0x0003FFF8 : Word)).extractLsb' 21 11 = BitVec.allOnes 11 := by decide
  have hhigh : (~~~(0x0003FFF8 : Word)).extractLsb' 18 3 = BitVec.allOnes 3 := by decide
  have hlow : (~~~(0x0003FFF8 : Word)).extractLsb' 3 15 = 0 := by decide
  have hbit (k : Nat) (hk : k < 3) : (canon m &&& ~~~(0x0003FFF8 : Word)).getLsbD k = (canon m).getLsbD k := by
    have hkept : ∀ j < 3, (~~~(0x0003FFF8 : Word)).getLsbD j = true := by decide
    rw [BitVec.getLsbD_and, hkept k hk, Bool.and_true]
  rw [eq_mobidOfCompact (extract_and_zero hlow (canon m)) ((hbit 0 (by decide)).trans (canon_bit0 m)),
    extract_and_ones hstd, extract_and_ones hhigh, hbit 2 (by decide), hbit 1 (by decide), canon_std, canon_extHigh,
    canon_ide, canon_rtr]

/-! ### The compact form -/

/-- 42 R171: the fields FW.DEC16 takes from a compact word, in the BxCAN layout. -/
theorem dec16raw_bxCan (h : BitVec 16) : dec16raw .bxCan h
    = mobidOfCompact (h.extractLsb' 5 11) (h.extractLsb' 0 3) (h.getLsbD 3) (h.getLsbD 4) := by
  rw [mobidOfCompact, ← extract_one, ← extract_one]
  rfl

/-- 42 R171: the fields FW.DEC16 takes from a compact word, in the SourceOrder layout. -/
theorem dec16raw_sourceOrder (h : BitVec 16) : dec16raw .sourceOrder h
    = mobidOfCompact (h.extractLsb' 5 11) (h.extractLsb' 2 3) (h.getLsbD 1) (h.getLsbD 0) := by
  rw [mobidOfCompact, ← extract_one, ← extract_one]
  rfl

/-- 30 R105: each layout reads the fields where it writes them. -/
theorem dec16raw_compactWord (l : Filt16Layout) (m : Word) (ext : BitVec 3) :
    dec16raw l (compactWord l m ext) = mobidOfCompact (m.extractLsb' 21 11) ext (m.getLsbD 2) (m.getLsbD 1) := by
  cases l with
  | bxCan =>
    rw [dec16raw_bxCan, compactWord, extract_one, extract_one]
    congr 1
    · exact (extract_append_high _ _ 2 11).trans <|
        (extract_append_high _ _ 1 11).trans BitVec.extractLsb'_append_eq_left
    · exact BitVec.extractLsb'_append_eq_right
    · exact (getLsbD_append_high _ _ 0).trans <| getLsbD_append_ofBool _ _
    · exact (getLsbD_append_high _ _ 1).trans <| (getLsbD_append_high _ _ 0).trans <| getLsbD_append_ofBool _ _
  | sourceOrder =>
    rw [dec16raw_sourceOrder, compactWord, extract_one, extract_one]
    congr 1
    · exact (extract_append_high _ _ 4 11).trans <|
        (extract_append_high _ _ 3 11).trans BitVec.extractLsb'_append_eq_left
    · exact (extract_append_high _ _ 1 3).trans <|
        (extract_append_high _ _ 0 3).trans BitVec.extractLsb'_append_eq_right
    · exact (getLsbD_append_high _ _ 0).trans <| getLsbD_append_ofBool _ _
    · exact getLsbD_append_ofBool _ _

theorem enc16raw_eq_compactWord (l : Filt16Layout) (m : Word) :
    enc16raw l m = compactWord l m (m.extractLsb' 18 3) := by cases l <;> rfl

/-- 42 R170: `canon` is what makes the EXT bits of a standard MOBID 000. -/
theorem enc16_eq_compactId (l : Filt16Layout) (m : Word) : enc16 l m = compactId l m := by
  rw [enc16, enc16raw_eq_compactWord, compactId, canon_extHigh]
  cases l <;> simp only [compactWord, canon_std, extract_one, canon_ide, canon_rtr]

theorem maskw16_eq_compactMask (p : Params) (k : Word) : maskw16 p k = compactMask p k := by
  have hones : (0xFFFF : BitVec 16) = BitVec.allOnes 16 := by decide
  rw [maskw16, compactMask, enc16raw_eq_compactWord, hones, BitVec.xor_allOnes]

theorem maskw32_eq_xor (p : Params) (k : Word) :
    maskw32 p k = (if p.filterMaskInvert then k ^^^ 0xFFFFFFFF else k) &&& 0xFFFFFFFE := by
  have hones : (0xFFFFFFFF : Word) = BitVec.allOnes 32 := by decide
  rw [maskw32, hones, BitVec.xor_allOnes]

/-- 42 R177: of the compact form, FW.DEC16 gives back the canonical MOBID but for EXT[14:0]. -/
theorem dec16_compactId (l : Filt16Layout) (m : Word) :
    dec16 l (compactId l m) = canon m &&& ~~~(0x0003FFF8 : Word) := by
  rw [dec16, compactId, dec16raw_compactWord, canon_mobidOfCompact, canon_clear_extLow]
  split <;> rfl

/-- Two halves of a word, as a sum (42 R173, R175). -/
theorem toNat_append_eq_add {n k : Nat} (x : BitVec n) (y : BitVec k) : (x ++ y).toNat = x.toNat * 2 ^ k + y.toNat := by
  rw [BitVec.toNat_append, ← Nat.shiftLeft_add_eq_or_of_lt y.isLt, Nat.shiftLeft_eq]

/-! ### The commands -/

section
variable {s : State}

/-- A 32-bit operand of a command that can start. -/
theorem operandWord_of_ready {i : Instr} (h : Ready i s) (k : Nat) (hw : (slotWidths i)[k]? = some 32) :
    operandWord (k + 1) s = .ok (word s (k + 1)) s := by
  obtain ⟨hk, hwidth⟩ := List.getElem?_eq_some_iff.mp hw
  exact operandWord_ok (hwidth ▸ h.2 k hk)

/-- A command with one operand, which fits, can start. -/
theorem ready_of_single {i : Instr} {w : Nat} (hf : s.fault = none) (hw : slotWidths i = [w]) (hx : s.ops.x1 < 2 ^ w) :
    Ready i s := by
  refine ⟨hf, fun k hk => ?_⟩
  obtain rfl : k = 0 := by simpa [hw] using hk
  simpa [hw] using hx

theorem fwEnc16_next (h : Ready .fwEnc16 s) :
    exec .fwEnc16 s = .next (s.setRes (Results.one (compactId s.params.filt16 (word s 1)).toNat)) := by
  refine command_ok h.1 ?_
  rw [Cmd.bind_ok (operandWord_of_ready h 0 rfl), enc16_eq_compactId]
  rfl

theorem fwDec16_next (h : Ready .fwDec16 s) :
    exec .fwDec16 s = .next (s.setRes (Results.one (dec16 s.params.filt16 (BitVec.ofNat 16 s.ops.x1)).toNat)) := by
  have h1 : s.ops.slot 1 < 2 ^ 16 := h.2 0 (by decide)
  refine command_ok h.1 ?_
  rw [Cmd.bind_ok (operand_ok h1)]
  rfl

theorem fwL32_next (h : Ready .fwL32 s) :
    exec .fwL32 s = .next (s.setRes (Results.two (word s 1 &&& fullMask).toNat (word s 2 &&& fullMask).toNat)) := by
  refine command_ok h.1 ?_
  rw [Cmd.bind_ok (operandWord_of_ready h 0 rfl), Cmd.bind_ok (operandWord_of_ready h 1 rfl)]
  rfl

theorem fwM32_next (h : Ready .fwM32 s) :
    exec .fwM32 s = .next (s.setRes
      (Results.two (word s 1 &&& fullMask).toNat (maskw32 s.params (word s 2)).toNat)) := by
  refine command_ok h.1 ?_
  rw [Cmd.bind_ok (operandWord_of_ready h 0 rfl), Cmd.bind_ok (operandWord_of_ready h 1 rfl)]
  rfl

theorem fwL16_next (h : Ready .fwL16 s) :
    let enc := enc16 s.params.filt16
    exec .fwL16 s = .next (s.setRes (Results.two (enc (word s 2) ++ enc (word s 1)).toNat
      (enc (word s 4) ++ enc (word s 3)).toNat)) := by
  refine command_ok h.1 ?_
  rw [Cmd.bind_ok (operandWord_of_ready h 0 rfl), Cmd.bind_ok (operandWord_of_ready h 1 rfl),
    Cmd.bind_ok (operandWord_of_ready h 2 rfl), Cmd.bind_ok (operandWord_of_ready h 3 rfl)]
  rfl

theorem fwM16_next (h : Ready .fwM16 s) :
    let enc := enc16 s.params.filt16
    let mask := maskw16 s.params
    exec .fwM16 s = .next (s.setRes (Results.two (mask (word s 2) ++ enc (word s 1)).toNat
      (mask (word s 4) ++ enc (word s 3)).toNat)) := by
  refine command_ok h.1 ?_
  rw [Cmd.bind_ok (operandWord_of_ready h 0 rfl), Cmd.bind_ok (operandWord_of_ready h 1 rfl),
    Cmd.bind_ok (operandWord_of_ready h 2 rfl), Cmd.bind_ok (operandWord_of_ready h 3 rfl)]
  rfl

theorem idDec_next (h : Ready .idDec s) :
    exec .idDec s = .next (s.setRes (Results.one (canon (word s 1 &&& fullMask)).toNat)) := by
  refine command_ok h.1 ?_
  rw [Cmd.bind_ok (operandWord_of_ready h 0 rfl)]
  rfl

/-- 42 R177, the first law: FW.DEC16 of a compact form. -/
theorem fwDec16_of_compactId {m : Word} (hf : s.fault = none) (hx : s.ops.x1 = (compactId s.params.filt16 m).toNat) :
    exec .fwDec16 s = .next (s.setRes (Results.one (canon m &&& ~~~(0x0003FFF8 : Word)).toNat)) := by
  rw [fwDec16_next (ready_of_single hf rfl (hx.trans_lt (BitVec.isLt _))), hx, BitVec.ofNat_toNat, BitVec.setWidth_eq,
    dec16_compactId]

/-- 42 R177, the second law: ID.DEC of a 32-bit list word. -/
theorem idDec_of_listWord {m : Word} (hf : s.fault = none) (hx : s.ops.x1 = (m &&& fullMask).toNat) :
    exec .idDec s = .next (s.setRes (Results.one (canon m).toNat)) := by
  have hword : word s 1 = m &&& fullMask := by
    calc word s 1 = BitVec.ofNat 32 (m &&& fullMask).toNat := congrArg (BitVec.ofNat 32) hx
      _ = m &&& fullMask := by rw [BitVec.ofNat_toNat, BitVec.setWidth_eq]
  rw [idDec_next (ready_of_single hf rfl (hx.trans_lt (BitVec.isLt _))), hword, canon_and_fullMask, canon_and_fullMask]

end

/-- Settles O33: the compact form that FW.ENC16 answers, and the canonical MOBID of the fields that FW.DEC16 reads at
the places of the layout. -/
theorem fwCompactForms : Obligations.FwCompactForms := by
  refine ⟨fun s h => fwEnc16_next h, fun s h => ?dec⟩
  case dec =>
    rw [fwDec16_next h, dec16]
    cases s.params.filt16 with
    | bxCan =>
      rw [dec16raw_bxCan, canon_mobidOfCompact]
      rfl
    | sourceOrder =>
      rw [dec16raw_sourceOrder, canon_mobidOfCompact]
      rfl

/-- Settles O34: each command's words are those of the compact forms and masks, and a 16-bit pair is the sum of its
halves. -/
theorem fwWords : Obligations.FwWords := by
  intro s
  refine ⟨fwL32_next, fun h => ?m32, fun h => ?l16, fun h => ?m16⟩
  case m32 => rw [fwM32_next h, maskw32_eq_xor]; rfl
  case l16 => simp only [fwL16_next h, enc16_eq_compactId, toNat_append_eq_add, Results.two]
  case m16 => simp only [fwM16_next h, enc16_eq_compactId, maskw16_eq_compactMask, toNat_append_eq_add, Results.two]

/-- Settles O35: the two laws of 42 R177, each at the state the first command ends in. -/
theorem filterRoundTrip : Obligations.FilterRoundTrip := by
  refine ⟨fun s t h hs ht hres => ?enc, fun s t w hs ht hres => ?list⟩
  case enc =>
    rw [fwEnc16_next hs] at ht
    cases ht
    cases hres
    exact fwDec16_of_compactId hs.1 rfl
  case list =>
    rw [fwL32_next hs] at ht
    cases ht
    cases hres
    exact idDec_of_listWord hs.1 rfl

end Sys2Proof.Machine
end

section
/-! The order in which pending mailboxes are sent (43 R205), as the order of a number per mailbox, and the mailbox that
comes last in it. -/

namespace Sys2Proof.Machine

open Sys2Proof.Spec

/-! ### The order as a key -/

/-- A mailbox's place in the order of 43 R205: its place in the request order under TXFP, else its identifier and then
its number. -/
def Ctrl.sendKey (r : Ctrl) (m : Fin 3) : Nat :=
  if r.txfp then r.reqOrder.idxOf m else 3 * (r.mb m).ident.toNat + m.val

section
variable {p : Params} {r : Ctrl}

theorem sentBefore_iff_sendKey_lt (r : Ctrl) (a b : Fin 3) : SentBefore r a b ↔ r.sendKey a < r.sendKey b := by
  unfold SentBefore Ctrl.sendKey Ctrl.txfp
  split
  case isTrue => exact Iff.rfl
  case isFalse =>
    rw [← BitVec.toNat_inj, Fin.lt_def]
    omega

/-- The model's order is the one of the rule. -/
theorem before_iff_sentBefore (r : Ctrl) (a b : Fin 3) : r.before a b = true ↔ SentBefore r a b := by
  unfold Ctrl.before SentBefore Ctrl.txfp
  split
  case isTrue => exact decide_eq_true_iff
  case isFalse => simp [BitVec.lt_def]

/-- Two pending mailboxes do not share a place: each stands in the request order, and they differ in number. -/
theorem Ctrl.inv.sendKey_inj (h : r.inv p) {a b : Fin 3} (ha : (r.mb a).txrq = true)
    (hkey : r.sendKey a = r.sendKey b) : a = b := by
  unfold Ctrl.sendKey at hkey
  split at hkey
  case isTrue => exact (List.idxOf_inj ((h.mem_reqOrder a).mpr ha)).mp hkey
  case isFalse => exact Fin.ext (by omega)

/-! ### The last of the pending mailboxes -/

theorem lastOf_cons (r : Ctrl) (a b : Fin 3) (l : List (Fin 3)) :
    r.lastOf a (b :: l) = r.lastOf (if r.before a b then b else a) l := rfl

theorem lastOf_mem (r : Ctrl) (a : Fin 3) (l : List (Fin 3)) : r.lastOf a l ∈ a :: l := by
  induction l generalizing a with
  | nil => exact List.mem_singleton_self a
  | cons b l ih =>
    rw [lastOf_cons]
    rcases List.mem_cons.mp (ih (if r.before a b then b else a)) with h | h
    · rw [h]
      split <;> simp
    · exact List.mem_cons_of_mem a (List.mem_cons_of_mem b h)

/-- No listed mailbox has a later place than the last one. -/
theorem sendKey_le_lastOf (r : Ctrl) (a : Fin 3) (l : List (Fin 3)) :
    ∀ q ∈ a :: l, r.sendKey q ≤ r.sendKey (r.lastOf a l) := by
  induction l generalizing a with
  | nil => simp [Ctrl.lastOf]
  | cons b l ih =>
    intro q hq
    rw [lastOf_cons]
    have hbefore := (before_iff_sentBefore r a b).trans (sentBefore_iff_sendKey_lt r a b)
    have hfirst := ih (if r.before a b then b else a) _ List.mem_cons_self
    have hle : r.sendKey a ≤ r.sendKey (if r.before a b then b else a)
        ∧ r.sendKey b ≤ r.sendKey (if r.before a b then b else a) := by
      split
      case isTrue h => exact ⟨(hbefore.mp h).le, le_rfl⟩
      case isFalse h => exact ⟨le_rfl, not_lt.mp (mt hbefore.mpr h)⟩
    simp only [List.mem_cons] at hq
    rcases hq with rfl | rfl | hq
    · exact hle.1.trans hfirst
    · exact hle.2.trans hfirst
    · exact ih _ q (List.mem_cons_of_mem _ hq)

/-- Where a mailbox is pending, so is the one of lowest priority, and no pending mailbox has a later place. -/
theorem lowestPriority_last (h : ∃ m, (r.mb m).txrq = true) :
    (r.mb r.lowestPriority).txrq = true
      ∧ ∀ q, (r.mb q).txrq = true → r.sendKey q ≤ r.sendKey r.lowestPriority := by
  obtain ⟨m, hm⟩ := h
  rw [← mem_pending] at hm
  simp only [← mem_pending]
  unfold Ctrl.lowestPriority
  cases hp : r.pending with
  | nil => rw [hp] at hm; cases hm
  | cons a l => exact ⟨lastOf_mem r a l, sendKey_le_lastOf r a l⟩

/-- 43 R205: every other pending mailbox is sent before the one of lowest priority. -/
theorem Ctrl.inv.sentBefore_lowestPriority (h : r.inv p) {q : Fin 3} (hq : (r.mb q).txrq = true)
    (hne : q ≠ r.lowestPriority) : SentBefore r q r.lowestPriority ∧ ¬ SentBefore r r.lowestPriority q := by
  obtain ⟨-, hlast⟩ := lowestPriority_last ⟨q, hq⟩
  have hle := hlast q hq
  have hkey : r.sendKey q ≠ r.sendKey r.lowestPriority := mt (h.sendKey_inj hq) hne
  rw [sentBefore_iff_sendKey_lt, sentBefore_iff_sendKey_lt]
  omega

end

/-- Settles O41: the mailbox of lowest priority has the last place, and no other pending mailbox shares it. -/
theorem lowestPriorityIsLast : Obligations.LowestPriorityIsLast := by
  intro s c hinv r hpending
  obtain ⟨hlow, -⟩ := lowestPriority_last hpending
  exact ⟨hlow, fun _ hq hne => (hinv.ctl c).sentBefore_lowestPriority hq hne⟩

end Sys2Proof.Machine
end

section
/-! The steps of the agents (43 R206 to R212): what they leave of every mailbox, and what the steps of the transmit
engine do. -/

namespace Sys2Proof.Machine

open Sys2Proof.Spec

/-! ### What an agent step leaves of a mailbox -/

/-- What the transmit engine never writes (43 R208): y has x's identifier, DLC, TGT, low payload word and Written flags,
and its high payload word but for the condition of R211. -/
structure FrameKept (ttcm : Bool) (x y : Mailbox) : Prop where
  ident : y.ident = x.ident
  dlc : y.dlc = x.dlc
  tgt : y.tgt = x.tgt
  tdl : y.tdl = x.tdl
  wroteTi : y.wroteTi = x.wroteTi
  wroteTdt : y.wroteTdt = x.wroteTdt
  wroteTdl : y.wroteTdl = x.wroteTdl
  wroteTdh : y.wroteTdh = x.wroteTdh
  tdh : y.tdh = x.tdh ∨ (ttcm = true ∧ x.tgt = true ∧ x.dlc = 8)

section
variable {x y : Mailbox} {ttcm : Bool}

theorem FrameKept.refl : FrameKept ttcm x x := ⟨rfl, rfl, rfl, rfl, rfl, rfl, rfl, rfl, .inl rfl⟩

/-- 43 R211: without TGT the high payload word stays too. -/
theorem FrameKept.tdh_eq (h : FrameKept ttcm x y) (htgt : x.tgt = false) : y.tdh = x.tdh :=
  h.tdh.resolve_right fun ⟨_, ht, _⟩ => by rw [htgt] at ht; cases ht

/-- 43 R211: COMPLETE writes the high payload word under TTCM, TGT and DLC 8 only. -/
theorem tdh_completed (h : ¬ (ttcm = true ∧ x.tgt = true ∧ x.dlc = 8)) (o : TxOutcome) (d0 d1 : BitVec 64) :
    (x.completed ttcm o d0 d1).tdh = x.tdh := if_neg (by simpa [and_assoc] using h)

/-- 43 R211: the low half of the high payload word stays. -/
theorem tdh_completed_low (x : Mailbox) (ttcm : Bool) (o : TxOutcome) (d0 d1 : BitVec 64) :
    (x.completed ttcm o d0 d1).tdh.extractLsb' 0 16 = x.tdh.extractLsb' 0 16 := by
  unfold Mailbox.completed
  dsimp only
  split
  · exact BitVec.extractLsb'_append_eq_right
  · rfl

theorem FrameKept.completed (o : TxOutcome) (d0 d1 : BitVec 64) : FrameKept ttcm x (x.completed ttcm o d0 d1) :=
  ⟨rfl, rfl, rfl, rfl, rfl, rfl, rfl, rfl, or_iff_not_imp_right.mpr fun h => tdh_completed h o d0 d1⟩

theorem FrameKept.retried (o : TxOutcome) (d : BitVec 64) : FrameKept ttcm x (x.retried o d) :=
  ⟨rfl, rfl, rfl, rfl, rfl, rfl, rfl, rfl, .inl rfl⟩

theorem FrameKept.aborted : FrameKept ttcm x x.aborted := ⟨rfl, rfl, rfl, rfl, rfl, rfl, rfl, rfl, .inl rfl⟩

/-- Replacing a mailbox keeps the frames of all where it keeps that one's. -/
theorem FrameKept.setMb {r : Ctrl} {n : Fin 3} (h : FrameKept ttcm (r.mb n) y) (m : Fin 3) :
    FrameKept ttcm (r.mb m) ((r.setMb n y).mb m) := by
  rw [Ctrl.mb_setMb]
  split
  case isTrue hm => rw [hm]; exact h
  case isFalse => exact .refl

end

theorem frameKept_effect (a : AgentStep) (d0 d1 : BitVec 64) (r : Ctrl) (m : Fin 3) :
    FrameKept r.ttcm (r.mb m) ((a.effect d0 d1 r).mb m) := by
  cases a with
  | complete c n o => exact (FrameKept.completed o d0 d1).setMb m
  | retry c n o => exact (FrameKept.retried o d0).setMb m
  | abort c n => exact FrameKept.aborted.setMb m
  | deliver | release | ack | error | wake => exact .refl

/-- 43 R208: an agent step keeps the frame of every mailbox. -/
theorem frameKept_agentStep (s : State) (a : AgentStep) (d : Ctl) (m : Fin 3) :
    FrameKept (s.ctl d).ttcm (s.mb d m) ((agentStep s a).mb d m) := by
  rw [State.mb_def, State.mb_def]
  by_cases hd : d = a.owner
  · subst hd
    rcases agentStep_cases s a with ⟨-, h⟩ | ⟨-, h⟩
    · rw [h]; exact .refl
    · rw [h, State.ctl_advance, State.ctl_setCtl_self]; exact frameKept_effect a _ _ _ m
  · rw [ctl_agentStep_ne s a hd]; exact .refl

/-- Settles O58: the step replaces the controller it belongs to, whose mailboxes keep their frames, and an empty
mailbox stays as it is. -/
theorem agentStepFrame : Obligations.AgentStepFrame := by
  intro s a
  refine ⟨filters_agentStep s a, fault_agentStep s a, res_agentStep s a, ops_agentStep s a, params_agentStep s a,
    agenda_agentStep s a, gaps_agentStep s a, fun d hd => ctl_agentStep_ne s a hd,
    fun d => ⟨ier_agentStep s a d, btr_agentStep s a d⟩, fun d m => ?mailbox⟩
  case mailbox =>
    obtain ⟨hident, hdlc, htgt, htdl, hti, htdt, hwtdl, hwtdh, htdh⟩ := frameKept_agentStep s a d m
    exact ⟨hident, hdlc, htgt, htdl, hti, htdt, hwtdl, hwtdh, htdh, mb_agentStep_empty s a d m⟩

/-! ### The steps of the transmit engine -/

theorem mode_eq_normal_iff (r : Ctrl) : r.mode = .normal ↔ r.msr.inak = false ∧ r.msr.slak = false := by
  unfold Ctrl.mode
  cases r.msr.inak <;> cases r.msr.slak <;> decide

/-- 43 R206: m may be attempted under either TX_ORDER. -/
theorem orderAllows_iff (r : Ctrl) (p : Params) (m : Fin 3) :
    r.orderAllows p m = true ↔
      (p.txOrder = .assumed → ∀ q, (r.mb q).txrq = true → q ≠ m → SentBefore r m q) := by
  unfold Ctrl.orderAllows
  cases p.txOrder with
  | any => simp
  | assumed =>
    simp only [Ctrl.isFirst, List.all_eq_true, mem_pending, Bool.or_eq_true, beq_iff_eq, before_iff_sentBefore,
      ← or_iff_not_imp_left, ne_eq, forall_const]

/-- 43 R206, R210. -/
theorem canComplete_iff (r : Ctrl) (p : Params) (m : Fin 3) (o : TxOutcome) :
    r.canComplete p m o = true ↔ (r.mb m).txrq = true ∧ (r.msr.inak = false ∧ r.msr.slak = false)
      ∧ (o = .ok ∨ r.nart = true) ∧ r.orderAllows p m = true := by
  simp only [Ctrl.canComplete, Bool.and_eq_true, Bool.or_eq_true, beq_iff_eq, mode_eq_normal_iff, and_assoc]

/-- 43 R207, R210. -/
theorem canRetry_iff (r : Ctrl) (p : Params) (m : Fin 3) (o : TxOutcome) :
    r.canRetry p m o = true ↔ (r.mb m).txrq = true ∧ (r.msr.inak = false ∧ r.msr.slak = false)
      ∧ ¬ r.nart = true ∧ o ≠ .ok ∧ r.orderAllows p m = true := by
  simp only [Ctrl.canRetry, Bool.and_eq_true, Bool.not_eq_true', beq_iff_eq, bne_iff_ne, mode_eq_normal_iff, and_assoc,
    Bool.not_eq_true]

/-- 43 R212. -/
theorem canAbort_iff (r : Ctrl) (m : Fin 3) :
    r.canAbort m = true ↔ (r.mb m).abrq = true ∧ (r.mb m).txrq = true := Bool.and_eq_true_iff

section
variable {s : State} {a : AgentStep}

theorem agentStep_of_disabled (h : ¬ a.enabledIn s.params (s.ctl a.owner) = true) : agentStep s a = s := if_neg h

theorem ctl_agentStep_owner (h : a.enabledIn s.params (s.ctl a.owner) = true) :
    (agentStep s a).ctl a.owner = a.effect (Config.draw s.draws) (Config.draw (s.draws + 1)) (s.ctl a.owner) := by
  rcases agentStep_cases s a with ⟨hoff, -⟩ | ⟨-, hstep⟩
  · rw [hoff] at h; cases h
  · rw [hstep, State.ctl_advance, State.ctl_setCtl_self]

end

/-- 43 R206, R212: the request order without m, as the rule lists it. -/
theorem dropRequest_setMb (r : Ctrl) (m : Fin 3) (x : Mailbox) : (r.setMb m x).dropRequest m
    = { r with mbs := (r.setMb m x).mbs, reqOrder := r.reqOrder.filter (· ≠ m) } := by
  have hfilter : r.reqOrder.filter (· != m) = r.reqOrder.filter (· ≠ m) :=
    List.filter_congr fun q _ => by rw [bne, beq_eq_decide, decide_not]
  rw [← hfilter]
  rfl

/-- Where one mailbox of a controller is replaced, it and the others are as `Ctrl.setMb` says. -/
theorem mb_of_setMb {s t : State} {c : Ctl} {m : Fin 3} {x : Mailbox}
    (h : (t.ctl c).mbs = ((s.ctl c).setMb m x).mbs) : t.mb c m = x ∧ ∀ q, q ≠ m → t.mb c q = s.mb c q :=
  ⟨(Ctrl.mb_congr h m).trans (Ctrl.mb_setMb_self _ m x),
    fun q hq => (Ctrl.mb_congr h q).trans (Ctrl.mb_setMb_ne _ x hq)⟩

section
variable {s : State} {c : Ctl} {m : Fin 3} {o : TxOutcome}

theorem ctl_complete (h : (s.ctl c).canComplete s.params m o = true) :
    ∃ d0 d1, (agentStep s (.complete c m o)).ctl c = { s.ctl c with
      mbs := ((s.ctl c).setMb m ((s.mb c m).completed (s.ctl c).ttcm o d0 d1)).mbs
      reqOrder := (s.ctl c).reqOrder.filter (· ≠ m) } :=
  ⟨_, _, (ctl_agentStep_owner (a := .complete c m o) h).trans (dropRequest_setMb _ m _)⟩

theorem ctl_retry (h : (s.ctl c).canRetry s.params m o = true) :
    ∃ d, (agentStep s (.retry c m o)).ctl c = (s.ctl c).setMb m ((s.mb c m).retried o d) :=
  ⟨_, ctl_agentStep_owner (a := .retry c m o) h⟩

theorem ctl_abort (h : (s.ctl c).canAbort m = true) :
    (agentStep s (.abort c m)).ctl c = { s.ctl c with
      mbs := ((s.ctl c).setMb m (s.mb c m).aborted).mbs
      reqOrder := (s.ctl c).reqOrder.filter (· ≠ m) } :=
  (ctl_agentStep_owner (a := .abort c m) h).trans (dropRequest_setMb _ m _)

end

/-- Settles O55: each step is enabled as its rule says, and its effect replaces one mailbox. -/
theorem txeSteps : Obligations.TxeSteps := by
  intro s c m o r x normal allowed nart stamped
  have hallowed : r.orderAllows s.params m = true ↔ allowed := orderAllows_iff r s.params m
  refine ⟨?complete, ?retry, ?abort⟩
  case complete =>
    have hon := (canComplete_iff r s.params m o).trans (by rw [hallowed])
    refine ⟨fun h => agentStep_of_disabled (mt hon.mp h), fun h => ?_⟩
    obtain ⟨d0, d1, hctl⟩ := ctl_complete (hon.mpr h)
    obtain ⟨hm, hother⟩ := mb_of_setMb (congrArg Ctrl.mbs hctl :)
    refine ⟨?rest, ?stamped, ?mailbox, ?low, fun htime => ?high, hother⟩
    case rest => rw [hctl]
    case stamped => simp [stamped, hm, Mailbox.completed]
    case mailbox => rw [hm]; rfl
    case low => rw [hm]; exact tdh_completed_low x _ o _ _
    case high => rw [hm]; exact tdh_completed htime o _ _
  case retry =>
    have hon := (canRetry_iff r s.params m o).trans (by rw [hallowed])
    refine ⟨fun h => agentStep_of_disabled (mt hon.mp h), fun h => ?_⟩
    obtain ⟨d, hctl⟩ := ctl_retry (hon.mpr h)
    obtain ⟨hm, hother⟩ := mb_of_setMb (congrArg Ctrl.mbs hctl :)
    refine ⟨?rest, ?stamped, ?mailbox, hother⟩
    case rest => rw [hctl]; rfl
    case stamped => simp [stamped, hm, Mailbox.retried]
    case mailbox => rw [hm]; rfl
  case abort =>
    have hon := canAbort_iff r m
    refine ⟨fun h => agentStep_of_disabled (mt hon.mp h), fun h => ?_⟩
    have hctl := ctl_abort (hon.mpr h)
    obtain ⟨hm, hother⟩ := mb_of_setMb (congrArg Ctrl.mbs hctl :)
    exact ⟨by rw [hctl], hm, hother⟩

end Sys2Proof.Machine
end

section
/-! TX.SELECT, TX.STATUS and TX.SEND (43 R191 to R193, R195, R196): what their one TSR read tells, and what TX.SEND leaves
of the state. -/

namespace Sys2Proof.Machine

open Sys2Proof.Spec

/-! ### Mailboxes after a read and after a command -/

theorem State.mb_advance (s : State) (n : Nat) (c : Ctl) (m : Fin 3) : (s.advance n).mb c m = s.mb c m :=
  congrArg (Ctrl.mb · m) (s.ctl_advance n c)

theorem State.mb_setRes (s : State) (r : Results) (c : Ctl) (m : Fin 3) : (s.setRes r).mb c m = s.mb c m :=
  congrArg (Ctrl.mb · m) (s.ctl_setRes r c)

/-! ### The TSR read -/

/-- CODE may name m (10 R28): m is empty, and the lowest-numbered empty mailbox under LowestIndex. -/
def Selectable (s : State) (c : Ctl) (m : Fin 3) : Prop :=
  (s.mb c m).txrq = false ∧ (s.params.codePolicy = .lowestIndex → ∀ q < m, (s.mb c q).txrq = true)

section
variable {s : State} {c : Ctl}

theorem memRead_tsr_value (s : State) (c : Ctl) : memRead c 0x008 4 s
    = .ok (overlay tsrMask ((s.ctl c).tsrWord s.params (Config.draw (s.draws + 1))) (Config.draw s.draws))
      (s.advance 2) := by
  rw [memRead_tsr]
  rfl

theorem memRead_tsr_full (h : ∀ m, (s.mb c m).txrq = true) :
    ∃ t, memRead c 0x008 4 s = .ok t (s.advance 2) ∧ tsrNoneEmpty t = true :=
  ⟨_, memRead_tsr_value s c, (tsrNoneEmpty_read _ _ _ _).mpr h⟩

theorem memRead_tsr_empty (h : ∃ m, (s.mb c m).txrq = false) :
    ∃ t, memRead c 0x008 4 s = .ok t (s.advance 2) ∧ tsrNoneEmpty t = false
      ∧ ∃ m : Fin 3, tsrCode t = m.val ∧ Selectable s c m := by
  refine ⟨_, memRead_tsr_value s c, ?some, _, tsrCode_read _ _ _ _, code_empty _ _ _ h,
    fun hp q hq => code_lowestIndex hp _ hq h⟩
  case some =>
    obtain ⟨m, hm⟩ := h
    rw [← Bool.not_eq_true, tsrNoneEmpty_read]
    exact fun hall => by rw [State.mb_def, hall m] at hm; cases hm

/-! ### TX.SELECT and TX.STATUS -/

theorem mailboxOf_val (m : Fin 3) : mailboxOf (BitVec.ofNat 2 m.val) = some m := by revert m; decide

/-- 30 R111: the index of a mailbox names it. -/
theorem withMailbox_val (i : Instr) (m : Fin 3) (body : Fin 3 → Cmd Results) :
    withMailbox i (BitVec.ofNat 2 m.val) body = body m := by simp only [withMailbox, mailboxOf_val]

theorem txSelect_full (hf : s.fault = none) (h : ∀ m, (s.mb c m).txrq = true) :
    exec (.txSelect c) s = .next ((s.advance 2).setRes (Results.one noMailbox)) := by
  obtain ⟨t, ht, hnone⟩ := memRead_tsr_full h
  refine command_ok hf ?_
  rw [Cmd.bind_ok ht, hnone]
  rfl

theorem txSelect_empty (hf : s.fault = none) (h : ∃ m, (s.mb c m).txrq = false) :
    ∃ m : Fin 3, Selectable s c m
      ∧ exec (.txSelect c) s = .next ((s.advance 2).setRes (Results.one m.val)) := by
  obtain ⟨t, ht, hnone, m, hcode, hm⟩ := memRead_tsr_empty h
  refine ⟨m, hm, command_ok hf ?_⟩
  rw [Cmd.bind_ok ht, hnone, hcode]
  rfl

theorem txStatus_next (hf : s.fault = none) (c : Ctl) (m : Fin 3) :
    let x := s.mb c m
    exec (.txStatus c (BitVec.ofNat 2 m.val)) s = .next ((s.advance 2).setRes
      (Results.five (!x.txrq).toNat x.rqcp.toNat x.txok.toNat x.alst.toNat x.terr.toNat)) := by
  intro x
  obtain ⟨v, hv, hflags, -⟩ := readReg_specified (s := s) (c := c) (r := .tsr) trivial
  obtain ⟨hrqcp, htxok, halst, hterr, -, htme, -⟩ := hflags m
  refine command_ok hf ?_
  rw [withMailbox_val, memRead_tsr, Cmd.bind_ok (readAt_ok hv), htme, Nat.add_zero, hrqcp, htxok, halst, hterr]
  rfl

end

/-- Settles O42: one TSR read, whose CODE and TME give TX.SELECT's answer and whose flags give TX.STATUS's. -/
theorem txSelectAndStatus : Obligations.TxSelectAndStatus := by
  intro s c hf
  refine ⟨fun hfull => ⟨_, txSelect_full hf hfull⟩, fun hempty => ?empty, fun m => ⟨_, txStatus_next hf c m⟩⟩
  case empty =>
    obtain ⟨m, ⟨hm, hlowest⟩, hnext⟩ := txSelect_empty hf hempty
    exact ⟨m, hm, hlowest, _, hnext⟩

/-! ### TX.SEND -/

section
variable {s : State} {c : Ctl}

/-- TX.SEND's body after its operands. -/
def sendBody (c : Ctl) (mobid : Word) (p : BitVec 64) (dlc : BitVec 4) : Cmd Results := do
  let t ← memRead c 0x008 4
  if tsrNoneEmpty t then return Results.one noMailbox
  else do
    sendInto c (0x180 + 0x10 * tsrCode t) mobid p dlc
    return Results.one (tsrCode t)

theorem txSend_next (h : Ready (.txSend c) s) : exec (.txSend c) s
    = .next (finish (sendBody c (word s 1) (BitVec.ofNat 64 s.ops.x2) (BitVec.ofNat 4 s.ops.x3) s)) := by
  have h2 : s.ops.slot 2 < 2 ^ 64 := h.2 1 (show 1 < 3 by decide)
  have h3 : s.ops.slot 3 < 2 ^ 8 := h.2 2 (show 2 < 3 by decide)
  refine (command_next h.1 _).trans ?_
  rw [Cmd.bind_ok (operandWord_of_ready h 0 rfl), Cmd.bind_ok (operand_ok h2), Cmd.bind_ok (operand_ok h3)]
  rfl

/-- 43 R196. -/
theorem txSend_full (h : Ready (.txSend c) s) (hfull : ∀ m, (s.mb c m).txrq = true) :
    exec (.txSend c) s = .next ((s.advance 2).setRes (Results.one noMailbox)) := by
  obtain ⟨t, ht, hnone⟩ := memRead_tsr_full hfull
  rw [txSend_next h, sendBody, Cmd.bind_ok ht, hnone]
  rfl

/-- TX.SEND's accesses after its TSR read, at the state that read leaves: into mailbox m, which CODE names, ending
in u (43 R192, R193). -/
structure Sent (s : State) (c : Ctl) (m : Fin 3) (u : State) : Prop where
  selectable : Selectable s c m
  runs : sendInto c (0x180 + 0x10 * m.val) (word s 1) (BitVec.ofNat 64 s.ops.x2) (BitVec.ofNat 4 s.ops.x3)
    (s.advance 2) = .ok () u
  spared : Spared s u
  mailbox : ∃ d, u.mb c m = sentMailbox (s.mb c m) (word s 1) (BitVec.ofNat 4 s.ops.x3)
    (sentPayload (BitVec.ofNat 64 s.ops.x2) (nbytes (BitVec.ofNat 4 s.ops.x3)) d)
  last : (u.ctl c).reqOrder.getLast? = some m

/-- 43 R192, R193: where a mailbox is empty, TX.SEND sends into one and returns it. -/
theorem txSend_empty (h : Ready (.txSend c) s) (hempty : ∃ m, (s.mb c m).txrq = false) :
    ∃ m u, Sent s c m u ∧ exec (.txSend c) s = .next (u.setRes (Results.one m.val)) := by
  obtain ⟨t, ht, hnone, m, hcode, hm⟩ := memRead_tsr_empty hempty
  have hread : (s.advance 2).mb c m = s.mb c m := s.mb_advance 2 c m
  obtain ⟨u, d, hrun, hspared, hmb, hlast⟩ := sendInto_ok c m (word s 1) (BitVec.ofNat 64 s.ops.x2)
    (BitVec.ofNat 4 s.ops.x3) (s.advance 2) (hread ▸ hm.1)
  refine ⟨m, u, ⟨hm, hrun, (Spared.advance s 2).trans hspared, ⟨d, hread ▸ hmb⟩, hlast⟩, ?_⟩
  rw [txSend_next h, sendBody, Cmd.bind_ok ht, hnone, hcode, if_neg Bool.false_ne_true, Cmd.bind_ok hrun]
  rfl

end

/-- Settles O45: the TSR read shows no empty mailbox, and TX.SEND makes no other access. -/
theorem txSendExhausted : Obligations.TxSendExhausted :=
  fun _ _ h hfull => ⟨_, txSend_full h hfull⟩

theorem nbytes_le (dlc : BitVec 4) : nbytes dlc ≤ 8 := Nat.min_le_right _ _

/-- 30 R108. -/
theorem nbytes_ofNat (n : Nat) : nbytes (BitVec.ofNat 4 n) = min (n % 16) 8 := by
  rw [nbytes, BitVec.toNat_ofNat]

/-- 43 R192: the lanes below nbytes(DLC) are the operand's. -/
theorem sentPayload_getLsbD {p d : BitVec 64} {n j : Nat} (hn : n ≤ 8) (hj : j < 8 * n) :
    (sentPayload p n d).getLsbD j = p.getLsbD j := by
  have hkeep : (keepMask n).getLsbD j = true := by
    rw [keepMask, BitVec.getLsbD_ofNat, Nat.testBit_two_pow_sub_one]
    simp only [Bool.and_eq_true, decide_eq_true_eq]
    omega
  rw [sentPayload, BitVec.getLsbD_or, BitVec.getLsbD_and, BitVec.getLsbD_and, BitVec.getLsbD_not, hkeep]
  simp

/-- The two register words of a payload hold it whole (30 R107). -/
theorem packHi_append_packLo (w : BitVec 64) : packHi w ++ packLo w = w := by
  ext j hj
  rw [← BitVec.getLsbD_eq_getElem, ← BitVec.getLsbD_eq_getElem, BitVec.getLsbD_append]
  unfold packHi packLo
  split
  case isTrue h => simp [h]
  case isFalse h =>
    rw [BitVec.getLsbD_extractLsb', decide_eq_true (by omega), Bool.true_and, Nat.add_sub_cancel' (by omega)]

/-- Settles O43: the mailbox is the one `Sent` describes, and what `Spared` lists is unchanged. -/
theorem txSendWritesFrame : Obligations.TxSendWritesFrame := by
  intro s c h hempty
  obtain ⟨m, u, ⟨⟨hm, hlowest⟩, -, hspared, ⟨d, hmb⟩, hlast⟩, hnext⟩ := txSend_empty h hempty
  refine ⟨_, m, hnext, hspared.fault.trans h.1, hm, rfl, hlowest, ?mailbox, ?last, fun e => ?kept, hspared.filters⟩
  case mailbox =>
    rw [State.mb_setRes, hmb]
    refine ⟨rfl, rfl, rfl, rfl, rfl, rfl, rfl, rfl, fun j hj => ?_⟩
    have hj' : j < 8 * nbytes (BitVec.ofNat 4 s.ops.x3) := by rw [nbytes_ofNat]; exact hj
    show (packHi _ ++ packLo _ : BitVec 64).getLsbD j = _
    rw [packHi_append_packLo, sentPayload_getLsbD (nbytes_le _) hj', BitVec.getLsbD_ofNat,
      decide_eq_true (by omega), Bool.true_and]
  case last => rw [State.ctl_setRes]; exact hlast
  case kept => rw [State.ctl_setRes]; exact ⟨hspared.ier e, hspared.btr e⟩

/-! ### What TX.SEND leaves unchanged -/

/-- 30 R113: a command with an operand that does not fit ends with a fault, and nothing else has changed. -/
theorem exec_misfit {i : Instr} {s : State} (hwf : i.wf = true) (hf : s.fault = none) (h : ¬ OperandsFit i s) :
    ∃ f, exec i s = .next { s with fault := some f, res := Results.absent } := by
  have hsome : ∃ k, ∃ h : k < (slotWidths i).length, ¬ s.ops.slot (k + 1) < 2 ^ (slotWidths i)[k] := by
    simpa only [OperandsFit, not_forall] using h
  obtain ⟨hk, hbad⟩ := Nat.find_spec hsome
  refine ⟨_, operandRangeFaultsFirst i s _ hk hwf hf (fun j hj => ?_) hbad⟩
  by_contra hmis
  exact Nat.find_min hsome hj ⟨hj.trans hk, hmis⟩

/-- How TX.SEND can end (43 R192, R196): a misfit operand, no empty mailbox, or a frame sent. -/
theorem txSend_cases {s t : State} {c : Ctl} (ht : exec (.txSend c) s = .next t) :
    (∃ f, t = { s with fault := some f, res := Results.absent }) ∨ t = (s.advance 2).setRes (Results.one noMailbox)
      ∨ ∃ m u, Sent s c m u ∧ t = u.setRes (Results.one m.val) := by
  obtain ⟨hf, -⟩ := command_next_inv ht
  by_cases hfit : OperandsFit (.txSend c) s
  case neg =>
    obtain ⟨f, hnext⟩ := exec_misfit rfl hf hfit
    cases ht.symm.trans hnext
    exact .inl ⟨f, rfl⟩
  case pos =>
    by_cases hempty : ∃ m, (s.mb c m).txrq = false
    case pos =>
      obtain ⟨m, u, hsent, hnext⟩ := txSend_empty ⟨hf, hfit⟩ hempty
      cases ht.symm.trans hnext
      exact .inr (.inr ⟨m, u, hsent, rfl⟩)
    case neg =>
      have hfull : ∀ m, (s.mb c m).txrq = true := by simpa using hempty
      cases ht.symm.trans (txSend_full ⟨hf, hfit⟩ hfull)
      exact .inr (.inl rfl)

/-- u is s but for mailbox m of controller c, and l at the end of its request order; no agent step is scheduled in a
gap. -/
structure SendFrame (s : State) (c : Ctl) (m : Fin 3) (l : List (Fin 3)) (u : State) : Prop where
  quiet : u.quiet
  other : ∀ d, d ≠ c → u.ctl d = s.ctl d
  filters : u.filters = s.filters
  params : u.params = s.params
  rest : u.ctl c = { s.ctl c with mbs := (u.ctl c).mbs, reqOrder := (s.ctl c).reqOrder ++ l }
  mailboxes : ∀ q, q ≠ m → u.mb c q = s.mb c q

/-- While TX.SEND runs, mailbox m stands at the end of the request order exactly if it is pending. -/
def Sending (s : State) (c : Ctl) (m : Fin 3) (u : State) : Prop :=
  SendFrame s c m (if (u.mb c m).txrq then [m] else []) u

section
variable {s u : State} {c : Ctl} {m : Fin 3} {l : List (Fin 3)}

/-- A state with the same controllers, filter registers, parameters and gaps has the same frame. -/
theorem SendFrame.congr (h : SendFrame s c m l u) {v : State} (hctl : ∀ d, v.ctl d = u.ctl d)
    (hfil : v.filters = u.filters) (hpar : v.params = u.params) (hgaps : v.gaps = u.gaps) : SendFrame s c m l v where
  quiet := hgaps.trans h.quiet
  other d hd := (hctl d).trans (h.other d hd)
  filters := hfil.trans h.filters
  params := hpar.trans h.params
  rest := by rw [hctl]; exact h.rest
  mailboxes q hq := (congrArg (Ctrl.mb · q) (hctl c)).trans (h.mailboxes q hq)

theorem SendFrame.refl (hq : s.quiet) : SendFrame s c m [] s where
  quiet := hq
  other _ _ := rfl
  filters := rfl
  params := rfl
  rest := by rw [List.append_nil]
  mailboxes _ _ := rfl

theorem SendFrame.setMb (h : SendFrame s c m l u) (x : Mailbox) (l' : List (Fin 3)) :
    SendFrame s c m l' (u.setCtl c { (u.ctl c).setMb m x with reqOrder := (s.ctl c).reqOrder ++ l' }) where
  quiet := (u.gaps_setCtl c _).trans h.quiet
  other d hd := (u.ctl_setCtl_ne _ hd).trans (h.other d hd)
  filters := (u.filters_setCtl c _).trans h.filters
  params := (u.params_setCtl c _).trans h.params
  rest := by rw [State.ctl_setCtl_self, h.rest]; rfl
  mailboxes q hq := by
    rw [State.mb_def, State.ctl_setCtl_self]
    exact (Ctrl.mb_setMb_ne _ x hq).trans (h.mailboxes q hq)

/-- While mailbox m is empty, the request order is the old one. -/
theorem Sending.reqOrder (h : Sending s c m u) (hx : (u.mb c m).txrq = false) :
    (u.ctl c).reqOrder = (s.ctl c).reqOrder := by
  unfold Sending at h
  rw [h.rest, hx]
  exact List.append_nil _

/-- A write of the empty mailbox m, which stays empty or is requested (40 R139, R140). -/
theorem Sending.update (h : Sending s c m u) (hx : (u.mb c m).txrq = false) (x : Mailbox) :
    Sending s c m (u.setCtl c { (u.ctl c).setMb m x with
      reqOrder := (u.ctl c).reqOrder ++ if x.txrq then [m] else [] }) := by
  have hmb : (u.setCtl c { (u.ctl c).setMb m x with
      reqOrder := (u.ctl c).reqOrder ++ if x.txrq then [m] else [] }).mb c m = x := by
    rw [State.mb_def, State.ctl_setCtl_self]
    exact Ctrl.mb_setMb_self _ m x
  unfold Sending
  rw [hmb, h.reqOrder hx]
  exact SendFrame.setMb h x _

theorem Sending.store (h : Sending s c m u) (hx : (u.mb c m).txrq = false) {x : Mailbox} (ht : x.txrq = false) :
    Sending s c m (u.setMb c m x) := by
  have hset := h.update hx x
  simp only [ht, Bool.false_eq_true, if_false, List.append_nil] at hset
  exact hset

theorem Sending.request (h : Sending s c m u) (hx : (u.mb c m).txrq = false) {x : Mailbox} (ht : x.txrq = true) :
    Sending s c m (u.setCtl c { (u.ctl c).setMb m x with reqOrder := (u.ctl c).reqOrder ++ [m] }) := by
  have hset := h.update hx x
  simp only [ht, if_true] at hset
  exact hset

/-- 40 R139: each way a TImR write of mailbox m can end. -/
theorem keeps_sending_writeTi (v : Word) : Cmd.Keeps (Sending s c m) (writeTi c m v) := by
  intro u hu
  cases hx : (u.mb c m).txrq with
  | true => rw [writeTi_busy hx]; exact hu
  | false =>
    cases hv : v.getLsbD 0 with
    | false => rw [writeTi_store rfl hx hv]; exact hu.store hx hx
    | true =>
      cases hmiss : (u.mb c m).missing m with
      | some r => rw [writeTi_missing hx hv hmiss]; exact hu.store hx hx
      | none => rw [writeTi_requested hx hv hmiss]; exact hu.request hx rfl

/-- 40 R140: a data register's write does not change TXRQ. -/
theorem keeps_sending_writeData {f : Mailbox → Mailbox} (hf : ∀ x, (f x).txrq = x.txrq) :
    Cmd.Keeps (Sending s c m) (writeData c m f) := by
  intro u hu
  cases hx : (u.mb c m).txrq with
  | true => rw [writeData_busy hx]; exact hu
  | false => rw [writeData_ok rfl hx]; exact hu.store hx ((hf _).trans hx)

theorem Sending.advance (h : Sending s c m u) (n : Nat) : Sending s c m (u.advance n) := by
  unfold Sending
  rw [State.mb_advance]
  exact SendFrame.congr h (u.ctl_advance n) rfl rfl rfl

theorem keeps_sending_gap : Cmd.Keeps (Sending s c m) gap := by
  intro u hu
  rw [gap_apply, runGap_quiet hu.quiet]
  exact hu

theorem keeps_sending_read {off : Nat} : Cmd.Keeps (Sending s c m) (memRead c off 4) := by
  intro u hu
  rcases memRead_cases c off 4 u with ⟨v, hv⟩ | ⟨f, hf⟩
  · rw [hv]; exact hu.advance 2
  · rw [hf]; exact hu

theorem keeps_sending_sendInto (mobid : Word) (p : BitVec 64) (dlc : BitVec 4) :
    Cmd.Keeps (Sending s c m) (sendInto c (0x180 + 0x10 * m.val) mobid p dlc) := by
  unfold sendInto
  rw [Nat.add_zero]
  simp only [memWrite_ti, memWrite_tdt, memWrite_tdl, memWrite_tdh]
  exact .bind keeps_sending_gap fun _ => .bind (keeps_sending_writeTi _) fun _ =>
    .bind keeps_sending_gap fun _ => .bind (keeps_sending_writeData fun _ => rfl) fun _ =>
    .bind (fun _ h => h.advance 1) fun _ =>
    .bind keeps_sending_gap fun _ => .bind (keeps_sending_writeData fun _ => rfl) fun _ =>
    .bind keeps_sending_gap fun _ => .bind (keeps_sending_writeData fun _ => rfl) fun _ =>
    .bind keeps_sending_gap fun _ => .bind keeps_sending_read fun _ =>
    .bind keeps_sending_gap fun _ => keeps_sending_writeTi _

/-- 43 R193: with no agent step between its accesses a frame sent changes its mailbox and the request order. -/
theorem Sent.frame (h : Sent s c m u) (hq : s.quiet) : SendFrame s c m [m] u := by
  obtain ⟨⟨hm, -⟩, hrun, -, ⟨d, hmb⟩, -⟩ := h
  have hstart : Sending s c m s := by
    unfold Sending
    rw [hm]
    exact .refl hq
  have hend := keeps_sending_sendInto (word s 1) (BitVec.ofNat 64 s.ops.x2) (BitVec.ofNat 4 s.ops.x3) _
    (hstart.advance 2)
  rw [hrun] at hend
  have hpending : (u.mb c m).txrq = true := congrArg Mailbox.txrq hmb
  unfold endState Sending at hend
  rwa [hpending] at hend

/-- 43 R192, R193, R196: TX.SEND without agent steps changes one empty mailbox, which it returns, or none. -/
theorem txSend_frame {t : State} (hq : s.quiet) (ht : exec (.txSend c) s = .next t) :
    (∃ m, (s.mb c m).txrq = false ∧ SendFrame s c m [m] t ∧ t.res.x1 = some m.val)
      ∨ (∀ m, SendFrame s c m [] t ∧ t.mb c m = s.mb c m) ∧ ∀ k, t.res.x1 = some k → k = 0xFF := by
  rcases txSend_cases ht with ⟨f, rfl⟩ | rfl | ⟨m, u, hsent, rfl⟩
  case inl =>
    have hctl : ∀ d, State.ctl { s with fault := some f, res := Results.absent } d = s.ctl d := fun d => by
      cases d <;> rfl
    exact .inr ⟨fun m => ⟨(SendFrame.refl hq).congr hctl rfl rfl rfl, congrArg (Ctrl.mb · m) (hctl c)⟩, nofun⟩
  case inr.inl =>
    have hctl : ∀ d, ((s.advance 2).setRes (Results.one noMailbox)).ctl d = s.ctl d := fun d => by simp
    exact .inr ⟨fun m => ⟨(SendFrame.refl hq).congr hctl rfl rfl rfl, congrArg (Ctrl.mb · m) (hctl c)⟩,
      fun k hk => (Option.some.inj hk).symm⟩
  case inr.inr =>
    exact .inl ⟨m, hsent.selectable.1, (hsent.frame hq).congr (u.ctl_setRes _) rfl rfl rfl, rfl⟩

end

/-- Settles O44: the accesses of a frame sent keep `Sending`, and where none is sent nothing of the block changes. -/
theorem txSendFrameOnly : Obligations.TxSendFrameOnly := by
  intro s t c hq ht
  obtain ⟨m, hframe, hbusy, hres⟩ : ∃ m, SendFrame s c m (if t.res.x1 = some m.val then [m] else []) t
      ∧ ((s.mb c m).txrq = true → t.mb c m = s.mb c m) ∧ ∀ k, t.res.x1 = some k → k = 0xFF ∨ k = m.val := by
    rcases txSend_frame hq ht with ⟨m, hm, hframe, hx1⟩ | ⟨hsame, hnone⟩
    case inl =>
      refine ⟨m, ?_, fun hbusy => absurd hbusy (by simp [hm]), fun k hk => .inr (Option.some.inj (hk.symm.trans hx1))⟩
      rw [if_pos hx1]
      exact hframe
    case inr =>
      obtain ⟨hframe, hmb⟩ := hsame 0
      refine ⟨0, ?_, fun _ => hmb, fun k hk => .inl (hnone k hk)⟩
      rw [if_neg fun hx1 => absurd (hnone _ hx1) (by decide)]
      exact hframe
  obtain ⟨-, hother, hfilters, hparams, hrest, hmailboxes⟩ := hframe
  refine ⟨m, hmailboxes, ?_, ?_, ?_, ?_, ?_, ?_, hother, hfilters, hparams, hbusy, ?_, fun _ => hres⟩
  all_goals rw [hrest]

end Sys2Proof.Machine
end

section
/-! TX.READBACK (43 R194, R197): its four reads, with any agent steps between them, give the mailbox as stored, and after
TX.SEND that is the frame sent. -/

namespace Sys2Proof.Machine

open Sys2Proof.Spec

/-! ### A read and the gap after it -/

/-- The state after a read and the gap that follows it. -/
def State.afterRead (s : State) : State := runGap (s.advance 2)

section
variable {α : Type} {s : State} {c : Ctl} {r : Reg}

theorem State.advance_advance (s : State) (n k : Nat) : (s.advance n).advance k = s.advance (n + k) := by
  simp only [State.advance, Nat.add_assoc]

theorem afterRead_quiet (hq : s.quiet) : s.afterRead = s.advance 2 := runGap_quiet hq

theorem afterRead_advance_quiet (hq : s.quiet) (n : Nat) : (s.advance n).afterRead = s.advance (n + 2) :=
  (afterRead_quiet (s := s.advance n) hq).trans (s.advance_advance n 2)

theorem fault_afterRead (s : State) : s.afterRead.fault = s.fault := fault_runGap _

/-- 40 R143: a specified register is read, and the command goes on after the gap. -/
theorem read_gap_specified (h : Specified s c r) : ∃ v, ReadsAs s c v r
    ∧ ∀ k : Word → Cmd α, (readAt c r >>= fun a => gap >>= fun _ => k a) s = k v s.afterRead := by
  obtain ⟨v, hv, hreads⟩ := readReg_specified h
  exact ⟨v, hreads, fun k => by rw [Cmd.bind_ok (readAt_ok hv), Cmd.bind_ok (gap_apply _)]; rfl⟩

/-- 40 R145: an unwritten register ends the command. -/
theorem read_unspecified (h : ¬ Specified s c r) (k : Word → Cmd α) :
    (readAt c r >>= k) s = .error (.unwrittenRead c r.offset) s :=
  Cmd.bind_error (by simp only [readAt, readReg_unspecified h])

end

/-! ### The reads of TX.READBACK -/

/-- What TX.READBACK answers from the four words it reads (43 R194). -/
def readbackResults (ti tdt lo hi : Word) : Results :=
  .five (ti &&& 0xFFFFFFFE).toNat (unpack lo hi).toNat (tdt.extractLsb' 0 4).toNat (tdt.getLsbD 8).toNat
    (tdt.extractLsb' 16 16).toNat

/-- TX.READBACK's accesses, by the registers they read. -/
def readbackBody (c : Ctl) (m : Fin 3) : Cmd Results := do
  let ti ← readAt c (.ti m)
  gap
  let tdt ← readAt c (.tdt m)
  gap
  let lo ← readAt c (.tdl m)
  gap
  let hi ← readAt c (.tdh m)
  return readbackResults ti tdt lo hi

theorem txReadback_eq (c : Ctl) (m : Fin 3) (s : State) :
    exec (.txReadback c (BitVec.ofNat 2 m.val)) s = command s (readbackBody c m) := by
  show command s (withMailbox _ _ _) = _
  simp only [withMailbox_val, Nat.add_zero, memRead_ti, memRead_tdt, memRead_tdl, memRead_tdh]
  rfl

section
variable {s : State} {c : Ctl} {m : Fin 3}

/-- 43 R194: with each register specified when it is read, the reads give the four words. -/
theorem readbackBody_specified (hti : Specified s c (.ti m)) (htdt : Specified s.afterRead c (.tdt m))
    (htdl : Specified s.afterRead.afterRead c (.tdl m))
    (htdh : Specified s.afterRead.afterRead.afterRead c (.tdh m)) :
    ∃ ti tdt lo hi, ReadsAs s c ti (.ti m) ∧ ReadsAs s.afterRead c tdt (.tdt m)
      ∧ ReadsAs s.afterRead.afterRead c lo (.tdl m) ∧ ReadsAs s.afterRead.afterRead.afterRead c hi (.tdh m)
      ∧ readbackBody c m s
        = .ok (readbackResults ti tdt lo hi) (s.afterRead.afterRead.afterRead.advance 2) := by
  obtain ⟨ti, hti, kti⟩ := read_gap_specified hti
  obtain ⟨tdt, htdt, ktdt⟩ := read_gap_specified htdt
  obtain ⟨lo, hlo, klo⟩ := read_gap_specified htdl
  obtain ⟨hi, hval, hhi⟩ := readReg_specified htdh
  refine ⟨ti, tdt, lo, hi, hti, htdt, hlo, hhi, ?_⟩
  rw [readbackBody, kti, ktdt, klo, Cmd.bind_ok (readAt_ok hval)]
  rfl

/-- 40 R145: the first of the four registers that is unwritten when its read comes ends TX.READBACK. -/
theorem readbackBody_unspecified :
    (¬ Specified s c (.ti m) → readbackBody c m s = .error (.unwrittenRead c (Reg.ti m).offset) s)
    ∧ (Specified s c (.ti m) → ¬ Specified s.afterRead c (.tdt m) →
      readbackBody c m s = .error (.unwrittenRead c (Reg.tdt m).offset) s.afterRead)
    ∧ (Specified s c (.ti m) → Specified s.afterRead c (.tdt m) → ¬ Specified s.afterRead.afterRead c (.tdl m) →
      readbackBody c m s = .error (.unwrittenRead c (Reg.tdl m).offset) s.afterRead.afterRead)
    ∧ (Specified s c (.ti m) → Specified s.afterRead c (.tdt m) → Specified s.afterRead.afterRead c (.tdl m) →
      ¬ Specified s.afterRead.afterRead.afterRead c (.tdh m) →
      readbackBody c m s = .error (.unwrittenRead c (Reg.tdh m).offset) s.afterRead.afterRead.afterRead) := by
  have next {r : Reg} {u : State} (h : Specified u c r) := read_gap_specified (α := Results) h
  refine ⟨fun h => read_unspecified h _, fun hti h => ?tdt, fun hti htdt h => ?tdl, fun hti htdt htdl h => ?tdh⟩
  case tdt =>
    obtain ⟨_, -, kti⟩ := next hti
    rw [readbackBody, kti]
    exact read_unspecified h _
  case tdl =>
    obtain ⟨_, -, kti⟩ := next hti
    obtain ⟨_, -, ktdt⟩ := next htdt
    rw [readbackBody, kti, ktdt]
    exact read_unspecified h _
  case tdh =>
    obtain ⟨_, -, kti⟩ := next hti
    obtain ⟨_, -, ktdt⟩ := next htdt
    obtain ⟨_, -, ktdl⟩ := next htdl
    rw [readbackBody, kti, ktdt, ktdl]
    exact read_unspecified h _

end

/-- A word with bit 0 clear is its upper bits. -/
theorem extract_append_zero {v : Word} (h : v.getLsbD 0 = false) : v.extractLsb' 1 31 ++ (0 : BitVec 1) = v := by
  ext k hk
  rw [← BitVec.getLsbD_eq_getElem, ← BitVec.getLsbD_eq_getElem, BitVec.getLsbD_append]
  split
  case isTrue h1 =>
    obtain rfl : k = 0 := by omega
    rw [h]
    rfl
  case isFalse h1 =>
    rw [BitVec.getLsbD_extractLsb', decide_eq_true (by omega), Bool.true_and, Nat.add_sub_cancel' (by omega)]

/-- 43 R194: the MOBID of a TImR value is its identifier, with bit 0 clear. -/
theorem mobid_of_ident {v : Word} {x : BitVec 31} (h : v.extractLsb' 1 31 = x) :
    v &&& 0xFFFFFFFE = x ++ (0 : BitVec 1) := by
  rw [← h, ← masked_ident v]
  exact (extract_append_zero (by simp)).symm

/-- Settles O46: the reads of a quiet TX.READBACK see one mailbox, and the first unwritten register ends it. -/
theorem txReadback : Obligations.TxReadback := by
  intro s c m hf hq i x faultsAt
  have mb (n : Nat) : (s.advance n).mb c m = x := s.mb_advance n c m
  have hread := readbackBody_specified (s := s) (c := c) (m := m)
  have hfault := readbackBody_unspecified (s := s) (c := c) (m := m)
  simp only [afterRead_quiet hq, afterRead_advance_quiet hq, Specified, ReadsAs, mb, Bool.not_eq_true] at hread hfault
  have raises {r : Reg} {n off : Nat} (hoff : r.offset = off + 0x10 * m.val)
      (h : readbackBody c m s = .error (.unwrittenRead c r.offset) (s.advance n)) : faultsAt off := by
    refine ⟨s.draws + n, ?_⟩
    rw [txReadback_eq, command_error hf h, recordFault_of_none (s := s.advance n) hf, hoff]
    rfl
  obtain ⟨noTi, noTdt, noTdl, noTdh⟩ := hfault
  refine ⟨fun hti htdt htdl htdh => ?stored, fun h => raises (n := 0) rfl (noTi h),
    fun hti h => raises rfl (noTdt hti h), fun hti htdt h => raises rfl (noTdl hti htdt h),
    fun hti htdt htdl h => raises rfl (noTdh hti htdt htdl h)⟩
  case stored =>
    obtain ⟨ti, tdt, lo, hi, ⟨hident, -⟩, ⟨hdlc, htgt, htime⟩, hlo, hhi, hok⟩ := hread hti htdt htdl htdh
    refine ⟨(tdt.extractLsb' 16 16).toNat, ⟨s.draws + 6 + 2, ?_⟩, BitVec.isLt _, fun y hy => by rw [htime y hy]⟩
    rw [txReadback_eq, command_ok hf hok, readbackResults, mobid_of_ident hident, hlo, hhi, hdlc, htgt]
    rfl

/-! ### What the agents keep of a frame sent -/

section
variable {x y z : Mailbox} {ttcm : Bool}

/-- 43 R211: with TGT = 0 an agent step keeps the whole frame, so the frames of a run of steps are one. -/
theorem FrameKept.trans_of_tgt (h : FrameKept false x y) (k : FrameKept ttcm y z) (htgt : x.tgt = false) :
    FrameKept false x z where
  ident := k.ident.trans h.ident
  dlc := k.dlc.trans h.dlc
  tgt := k.tgt.trans h.tgt
  tdl := k.tdl.trans h.tdl
  wroteTi := k.wroteTi.trans h.wroteTi
  wroteTdt := k.wroteTdt.trans h.wroteTdt
  wroteTdl := k.wroteTdl.trans h.wroteTdl
  wroteTdh := k.wroteTdh.trans h.wroteTdh
  tdh := .inl ((k.tdh_eq (h.tgt.trans htgt)).trans (h.tdh_eq htgt))

end

/-- Mailbox m of controller c holds x's frame. -/
def HoldsFrame (c : Ctl) (m : Fin 3) (x : Mailbox) (s : State) : Prop := FrameKept false x (s.mb c m)

section
variable {c : Ctl} {m : Fin 3} {x : Mailbox} {s : State}

/-- A state with the same controller holds the same frame. -/
theorem HoldsFrame.congr {t : State} (h : HoldsFrame c m x s) (hctl : t.ctl c = s.ctl c) : HoldsFrame c m x t := by
  rw [HoldsFrame, State.mb_def, hctl]
  exact h

theorem HoldsFrame.agentStep (htgt : x.tgt = false) (h : HoldsFrame c m x s) (a : AgentStep) :
    HoldsFrame c m x (agentStep s a) :=
  FrameKept.trans_of_tgt h (frameKept_agentStep s a c m) htgt

theorem HoldsFrame.agentSteps (htgt : x.tgt = false) (h : HoldsFrame c m x s) (l : List AgentStep) :
    HoldsFrame c m x (agentSteps s l) :=
  agentSteps_induct (fun _ a h => h.agentStep htgt a) l s h

theorem HoldsFrame.afterRead (htgt : x.tgt = false) (h : HoldsFrame c m x s) : HoldsFrame c m x s.afterRead :=
  runGap_induct (fun t g ht => ht.congr (t.ctl_setGaps g c)) (fun _ a ht => ht.agentStep htgt a) (s.advance 2)
    (h.congr (s.ctl_advance 2 c))

/-- 43 R194, R208: TX.READBACK gives a frame that the mailbox holds, whatever agent steps fall between its reads. -/
theorem txReadback_holds (hf : s.fault = none) (h : HoldsFrame c m x s) (htgt : x.tgt = false)
    (hti : x.wroteTi = true) (htdt : x.wroteTdt = true) (htdl : x.wroteTdl = true) (htdh : x.wroteTdh = true) :
    ∃ u n, exec (.txReadback c (BitVec.ofNat 2 m.val)) s = .next u ∧ u.fault = none
      ∧ u.res = .five (x.ident ++ (0 : BitVec 1)).toNat (x.tdh ++ x.tdl).toNat x.dlc.toNat 0 n := by
  have h1 := h.afterRead htgt
  have h2 := h1.afterRead htgt
  have h3 := h2.afterRead htgt
  obtain ⟨ti, tdt, lo, hi, ⟨hident, -⟩, ⟨hdlc, htgt', -⟩, hlo, hhi, hok⟩ := readbackBody_specified
    (h.wroteTi.trans hti) (h1.wroteTdt.trans htdt) (h2.wroteTdl.trans htdl) (h3.wroteTdh.trans htdh)
  refine ⟨_, (tdt.extractLsb' 16 16).toNat, (txReadback_eq c m s).trans (command_ok hf hok), ?fault, ?results⟩
  case fault => simp [fault_afterRead, hf]
  case results =>
    rw [State.res_setRes, readbackResults, mobid_of_ident (hident.trans h.ident), hlo, hhi, h2.tdl, h3.tdh_eq htgt,
      hdlc, h1.dlc, htgt', h1.tgt, htgt]
    rfl

end

/-! ### The round trip of a payload -/

/-- 43 R192: a payload of eight bytes is sent whole. -/
theorem sentPayload_eight (p d : BitVec 64) : sentPayload p 8 d = p := by
  refine BitVec.eq_of_getLsbD_eq fun j hj => ?_
  exact sentPayload_getLsbD le_rfl hj

/-- Settles O47: the mailbox that `Sent` describes holds its frame until TX.READBACK has read it. -/
theorem payloadRoundTrip : Obligations.PayloadRoundTrip := by
  intro s t c m l h hlen ht hres
  rcases txSend_cases ht with ⟨f, rfl⟩ | rfl | ⟨m', u, hsent, rfl⟩
  case inl => cases hres
  case inr.inl =>
    have : noMailbox = m.val := Option.some.inj hres
    have : noMailbox = 0xFF := rfl
    omega
  case inr.inr =>
    obtain rfl : m' = m := Fin.ext (Option.some.inj hres)
    obtain ⟨-, -, hspared, ⟨d, hmb⟩, -⟩ := hsent
    have hholds : HoldsFrame c m' (u.mb c m') (agentSteps (u.setRes (Results.one m'.val)) l) :=
      HoldsFrame.agentSteps (by rw [hmb]; rfl) (HoldsFrame.congr .refl (u.ctl_setRes _ c)) l
    rw [hmb] at hholds
    have hfault : (agentSteps (u.setRes (Results.one m'.val)) l).fault = none := by
      rw [fault_agentSteps]
      exact hspared.fault.trans h.1
    obtain ⟨v, n, hnext, hv, hvres⟩ := txReadback_holds hfault hholds rfl rfl rfl rfl rfl
    have hx2 : s.ops.x2 < 2 ^ 64 := h.2 1 (show 1 < 3 by decide)
    rw [hlen] at hvres
    refine ⟨v, hnext, hv, ?mobid, ?payload, by rw [hvres]; rfl, by rw [hvres]; rfl⟩
    case mobid =>
      rw [hvres]
      exact congrArg (some ·.toNat) (extract_append_zero (canon_bit0 _))
    case payload =>
      have hsent : (packHi _ ++ packLo _ : BitVec 64) = BitVec.ofNat 64 s.ops.x2 :=
        (packHi_append_packLo _).trans (sentPayload_eight _ d)
      rw [hvres]
      exact congrArg some ((congrArg BitVec.toNat hsent).trans (by rw [BitVec.toNat_ofNat, Nat.mod_eq_of_lt hx2]))

end Sys2Proof.Machine
end

section
/-! The steps of the receive engine (44 R231 to R233): what a delivery and a release make of a FIFO, and that they touch
no other part of the controller. -/

namespace Sys2Proof.Machine

open Sys2Proof.Spec

/-! ### A delivery into a FIFO -/

section
variable {x : Fifo}

/-- 44 R231: the first two entries leave FULL. -/
theorem Fifo.delivered_of_lt_two (h : x.q.length < 2) (rflm : Bool) (e : Entry) :
    x.delivered rflm e = { x with q := x.q ++ [e] } := by
  have hthird : x.q.length ≠ 2 := by omega
  simp [Fifo.delivered, show x.q.length < 3 by omega, hthird]

/-- 44 R231: the third entry sets FULL. -/
theorem Fifo.delivered_of_two (h : x.q.length = 2) (rflm : Bool) (e : Entry) :
    x.delivered rflm e = { x with q := x.q ++ [e], full := true } := by
  simp [Fifo.delivered, h]

/-- 44 R232: an overrun. -/
theorem Fifo.delivered_of_full (h : 3 ≤ x.q.length) (rflm : Bool) (e : Entry) :
    x.delivered rflm e = { x with fovr := true, q := if rflm then x.q else x.q.take 2 ++ [e] } :=
  if_neg (by omega)

/-- 44 R232: neither a delivery nor an overrun replaces the head. -/
theorem Fifo.head?_delivered {a : Entry} (h : x.q.head? = some a) (rflm : Bool) (e : Entry) :
    (x.delivered rflm e).q.head? = some a := by
  by_cases hroom : x.q.length < 3
  case pos => simp [Fifo.delivered, hroom, h]
  case neg =>
    rw [Fifo.delivered_of_full (by omega)]
    cases rflm with
    | true => exact h
    | false => exact List.mem_head?_append_of_mem_head? (List.head?_take.trans h)

end

/-! ### The steps -/

/-- 44 R231. -/
theorem canDeliver_iff (r : Ctrl) (e : Entry) :
    r.canDeliver e = true ↔ r.msr.inak = false ∧ r.msr.slak = false ∧ e.rir.getLsbD 0 = false := by
  simp only [Ctrl.canDeliver, Bool.and_eq_true, Bool.not_eq_true', beq_iff_eq, mode_eq_normal_iff, and_assoc]

section
variable {s : State} {c : Ctl} {f : Fin 2}

theorem ctl_deliver {e : Entry} (h : (s.ctl c).canDeliver e = true) :
    (agentStep s (.deliver c f e)).ctl c = (s.ctl c).setFifo f ((s.fifo c f).delivered (s.ctl c).rflm e) :=
  ctl_agentStep_owner (a := .deliver c f e) h

theorem ctl_release (h : (s.fifo c f).rfom = true) :
    (agentStep s (.release c f)).ctl c = (s.ctl c).setFifo f (s.fifo c f).released :=
  ctl_agentStep_owner (a := .release c f) h

/-- Where one FIFO of a controller is replaced, the rest of the controller is as it was. -/
theorem fifo_of_setFifo {t : State} {x : Fifo} (h : t.ctl c = (s.ctl c).setFifo f x) :
    t.fifo c f = x ∧ (∀ g, g ≠ f → t.fifo c g = s.fifo c g) ∧ t.ctl c = { s.ctl c with fifos := (t.ctl c).fifos } := by
  simp only [State.fifo_def, h]
  exact ⟨Ctrl.fifo_setFifo_self _ f x, fun g hg => Ctrl.fifo_setFifo_ne _ x hg, rfl⟩

end

/-- Settles O56: each step is enabled as its rule says, and its effect replaces one FIFO. -/
theorem rxeSteps : Obligations.RxeSteps := by
  intro s c f e r x on
  have hon : r.canDeliver e = true ↔ on := canDeliver_iff r e
  refine ⟨fun h => agentStep_of_disabled (mt hon.mp h), fun h => ?deliver,
    fun h => agentStep_of_disabled (Bool.not_eq_true _ |>.mpr h), fun h => fifo_of_setFifo (ctl_release h)⟩
  case deliver =>
    intro t
    obtain ⟨hf, hother, hrest⟩ := fifo_of_setFifo (ctl_deliver (f := f) (hon.mpr h))
    have hfull {locked : Bool} (hlen : x.q.length = 3) (hlock : r.rflm = locked) :
        t.fifo c f = { x with fovr := true, q := if locked then x.q else x.q.take 2 ++ [e] } :=
      hlock ▸ hf.trans (Fifo.delivered_of_full hlen.ge _ e)
    refine ⟨fun hlen => hf.trans (Fifo.delivered_of_lt_two hlen _ e),
      fun hlen => hf.trans (Fifo.delivered_of_two hlen _ e), hfull, hfull,
      fun a ha => (congrArg (·.q.head?) hf).trans (Fifo.head?_delivered ha _ e), hother, hrest⟩

end Sys2Proof.Machine
end

section
/-! RX.READ, RX.RELEASE and RX.COUNT (44 R221 to R225): what the reads of a FIFO's output registers give, with any agent
steps between them, and what a release request leaves. -/

namespace Sys2Proof.Machine

open Sys2Proof.Spec

/-! ### FIFOs of the machine -/

@[simp] theorem State.fifo_advance (s : State) (n : Nat) (c : Ctl) (f : Fin 2) :
    (s.advance n).fifo c f = s.fifo c f :=
  congrArg (Ctrl.fifo · f) (s.ctl_advance n c)

@[simp] theorem State.fifo_setRes (s : State) (r : Results) (c : Ctl) (f : Fin 2) :
    (s.setRes r).fifo c f = s.fifo c f :=
  congrArg (Ctrl.fifo · f) (s.ctl_setRes r c)

@[simp] theorem State.fifo_setGaps (s : State) (g : List (List AgentStep)) (c : Ctl) (f : Fin 2) :
    (s.setGaps g).fifo c f = s.fifo c f :=
  congrArg (Ctrl.fifo · f) (s.ctl_setGaps g c)

@[simp] theorem State.fifo_setFifo_self (s : State) (c : Ctl) (f : Fin 2) (x : Fifo) :
    (s.setFifo c f x).fifo c f = x := by
  simp [State.fifo_def, State.setFifo_def]

@[simp] theorem State.setFifo_fifo (s : State) (c : Ctl) (f : Fin 2) : s.setFifo c f (s.fifo c f) = s := by
  have hctl : (s.ctl c).setFifo f ((s.ctl c).fifo f) = s.ctl c := by
    simp [Ctrl.setFifo, Ctrl.fifo, Vector.get_eq_getElem]
  rw [State.setFifo_def, State.fifo_def, hctl, State.setCtl_ctl]

/-- 30 R111: the index of a FIFO names it. -/
theorem withFifo_val (i : Instr) (f : Fin 2) (body : Fin 2 → Cmd Results) :
    withFifo i (BitVec.ofNat 2 f.val) body = body f := by
  have hf : fifoOf (BitVec.ofNat 2 f.val) = some f := by revert f; decide
  simp only [withFifo, hf]

/-! ### The release request -/

/-- A FIFO after a release request (44 R223): RFOM is set where there is a head. -/
def Fifo.releaseRequested (x : Fifo) : Fifo := { x with rfom := x.rfom || !x.q.isEmpty }

/-- A release request writes FULL and FOVR 0, which keeps them (40 R136). -/
theorem Fifo.rfrWritten_release (x : Fifo) : x.rfrWritten 0x20 = x.releaseRequested := by
  rw [Fifo.rfrWritten_eq, ← or_eq_ite]
  rfl

theorem requestRelease_ok (c : Ctl) (f : Fin 2) (s : State) :
    requestRelease c f s = .ok () (s.setFifo c f (s.fifo c f).releaseRequested) := by
  rw [requestRelease, memWrite_rfr, writeRfr, Fifo.rfrWritten_release]

/-! ### RX.RELEASE and RX.COUNT -/

section
variable {s : State}

theorem rxRelease_next (hf : s.fault = none) (c : Ctl) (f : Fin 2) :
    exec (.rxRelease c (BitVec.ofNat 2 f.val)) s
      = .next ((s.setFifo c f (s.fifo c f).releaseRequested).setRes Results.absent) := by
  refine command_ok hf ?_
  rw [withFifo_val, Cmd.bind_ok (requestRelease_ok c f s)]
  rfl

theorem rxCount_next (hf : s.fault = none) (c : Ctl) (f : Fin 2) :
    let x := s.fifo c f
    exec (.rxCount c (BitVec.ofNat 2 f.val)) s = .next ((s.advance 2).setRes
      (Results.four (x.q.length % 4) x.full.toNat x.fovr.toNat x.rfom.toNat)) := by
  intro x
  obtain ⟨v, hv, hfmp, hfull, hfovr, hrfom⟩ := readReg_specified (s := s) (c := c) (r := .rfr f) trivial
  refine command_ok hf ?_
  rw [withFifo_val, memRead_rfr, Cmd.bind_ok (readAt_ok hv), hfmp, hfull, hfovr, hrfom]
  rfl

end

/-- Settles O50: one RFfR write, which keeps FULL and FOVR, and one RFfR read. -/
theorem rxReleaseAndCount : Obligations.RxReleaseAndCount :=
  fun _ c f hf => ⟨rxRelease_next hf c f, _, rxCount_next hf c f⟩

/-! ### The accesses of RX.READ -/

/-- RX.READ's accesses, by the registers they read. -/
def rxReadBody (c : Ctl) (f : Fin 2) (rel : Bool) : Cmd Results := do
  let ri ← readAt c (.ri f)
  gap
  let rdt ← readAt c (.rdt f)
  gap
  let lo ← readAt c (.rdl f)
  gap
  let hi ← readAt c (.rdh f)
  if rel then do
    gap
    requestRelease c f
    return decodeFrame ri rdt lo hi
  else return decodeFrame ri rdt lo hi

theorem rxRead_eq (c : Ctl) (f : Fin 2) (rel : Bool) (s : State) :
    exec (.rxRead c (BitVec.ofNat 2 f.val) rel) s = command s (rxReadBody c f rel) := by
  show command s (withFifo _ _ _) = _
  simp only [withFifo_val, Nat.add_zero, memRead_ri, memRead_rdt, memRead_rdl, memRead_rdh]
  rfl

/-- The state after RX.READ's last access, from the state u after its reads (44 R222). -/
def rxReadEnd (c : Ctl) (f : Fin 2) (rel : Bool) (u : State) : State :=
  if rel then (runGap u).setFifo c f ((runGap u).fifo c f).releaseRequested else u

theorem fault_rxReadEnd (c : Ctl) (f : Fin 2) (rel : Bool) (u : State) :
    (rxReadEnd c f rel u).fault = u.fault := by
  cases rel <;> simp [rxReadEnd, State.setFifo_def]

/-- 44 R222: the output registers always give a value, so RX.READ does not fault. -/
theorem rxReadBody_ok (c : Ctl) (f : Fin 2) (rel : Bool) (s : State) :
    ∃ ri rdt lo hi, ReadsAs s c ri (.ri f) ∧ ReadsAs s.afterRead c rdt (.rdt f)
      ∧ ReadsAs s.afterRead.afterRead c lo (.rdl f) ∧ ReadsAs s.afterRead.afterRead.afterRead c hi (.rdh f)
      ∧ rxReadBody c f rel s
        = .ok (decodeFrame ri rdt lo hi) (rxReadEnd c f rel (s.afterRead.afterRead.afterRead.advance 2)) := by
  obtain ⟨ri, hri, kri⟩ := read_gap_specified (s := s) (c := c) (r := .ri f) trivial
  obtain ⟨rdt, hrdt, krdt⟩ := read_gap_specified (s := s.afterRead) (c := c) (r := .rdt f) trivial
  obtain ⟨lo, hlo, klo⟩ := read_gap_specified (s := s.afterRead.afterRead) (c := c) (r := .rdl f) trivial
  obtain ⟨hi, hval, hhi⟩ :=
    readReg_specified (s := s.afterRead.afterRead.afterRead) (c := c) (r := .rdh f) trivial
  refine ⟨ri, rdt, lo, hi, hri, hrdt, hlo, hhi, ?_⟩
  rw [rxReadBody, kri, krdt, klo, Cmd.bind_ok (readAt_ok hval)]
  cases rel with
  | false => rfl
  | true => exact (Cmd.bind_ok (gap_apply _)).trans (Cmd.bind_ok (requestRelease_ok c f _))

/-! ### RX.READ with quiet gaps -/

theorem rxReadEnd_quiet {u : State} (hq : u.quiet) (c : Ctl) (f : Fin 2) (rel : Bool) :
    rxReadEnd c f rel u
      = u.setFifo c f { u.fifo c f with rfom := (u.fifo c f).rfom || (rel && !(u.fifo c f).q.isEmpty) } := by
  cases rel with
  | false =>
    rw [Bool.false_and, Bool.or_false]
    exact (u.setFifo_fifo c f).symm
  | true => rw [rxReadEnd, if_pos rfl, runGap_quiet hq]; rfl

/-- Settles O49: the reads take draw numbers only, and a quiet RX.READ ends as `rxReadEnd_quiet` says. -/
theorem rxReadChangesRfomOnly : Obligations.RxReadChangesRfomOnly := by
  intro s c f rel hf hq
  obtain ⟨ri, rdt, lo, hi, -, -, -, -, hok⟩ := rxReadBody_ok c f rel s
  simp only [afterRead_quiet hq, afterRead_advance_quiet hq, State.advance_advance] at hok
  rw [rxReadEnd_quiet (u := s.advance _) hq, State.fifo_advance] at hok
  refine ⟨decodeFrame ri rdt lo hi, ⟨s.draws + 8, (rxRead_eq c f rel s).trans ((command_ok hf hok).trans ?_)⟩,
    nofun, nofun, nofun, nofun, nofun⟩
  cases c <;> rfl

/-! ### The head an RX.READ sees -/

section
variable {s : State} {c : Ctl} {f : Fin 2} {e : Entry}

/-- 44 R225: an enabled step of the receive engine keeps the entry shown: a delivery does not replace the head, and
without RFOM there is no release. -/
theorem shows_effect {r : Ctrl} (h : Shows (r.fifo f) e) {a : AgentStep} {p : Params} (hon : a.enabledIn p r = true)
    (d0 d1 : BitVec 64) : Shows ((a.effect d0 d1 r).fifo f) e := by
  obtain ⟨hrfom, hhead⟩ := h
  cases a with
  | deliver c g e' =>
    by_cases hg : f = g
    case neg => exact (Ctrl.fifo_setFifo_ne r _ hg).symm ▸ ⟨hrfom, hhead⟩
    case pos =>
      subst hg
      refine (Ctrl.fifo_setFifo_self r f _).symm ▸ ⟨?_, Fifo.head?_delivered hhead _ e'⟩
      unfold Fifo.delivered
      split <;> exact hrfom
  | release c g =>
    have hg : f ≠ g := by
      rintro rfl
      exact Bool.false_ne_true (hrfom.symm.trans hon)
    exact (Ctrl.fifo_setFifo_ne r _ hg).symm ▸ ⟨hrfom, hhead⟩
  | complete | retry | abort | ack | error | wake => exact ⟨hrfom, hhead⟩

theorem shows_agentStep (h : Shows (s.fifo c f) e) (a : AgentStep) : Shows ((agentStep s a).fifo c f) e := by
  rw [State.fifo_def] at h ⊢
  by_cases hc : c = a.owner
  case neg => rw [ctl_agentStep_ne s a hc]; exact h
  case pos =>
    subst hc
    rcases agentStep_cases s a with ⟨-, hstep⟩ | ⟨hon, hstep⟩
    · rw [hstep]; exact h
    · rw [hstep, State.ctl_advance, State.ctl_setCtl_self]; exact shows_effect h hon _ _

theorem shows_runGap (h : Shows (s.fifo c f) e) : Shows ((runGap s).fifo c f) e :=
  runGap_induct (P := fun t => Shows (t.fifo c f) e) (fun t g ht => (t.fifo_setGaps g c f).symm ▸ ht)
    (fun _ a ht => shows_agentStep ht a) s h

theorem shows_afterRead (h : Shows (s.fifo c f) e) : Shows (s.afterRead.fifo c f) e :=
  shows_runGap (by rwa [State.fifo_advance])

/-- 44 R222: the release is requested exactly if asked, and the head stays until RXE releases it. -/
theorem rxReadEnd_shows (h : Shows (s.fifo c f) e) (rel : Bool) :
    ((rxReadEnd c f rel s).fifo c f).rfom = rel ∧ ((rxReadEnd c f rel s).fifo c f).q.head? = some e := by
  cases rel with
  | false => exact h
  | true =>
    obtain ⟨-, hhead⟩ := shows_runGap h
    have hne : ((runGap s).fifo c f).q.isEmpty = false := by
      rw [List.isEmpty_eq_false_iff]
      intro hnil
      rw [hnil] at hhead
      cases hhead
    rw [rxReadEnd, if_pos rfl, State.fifo_setFifo_self, Fifo.releaseRequested, hne]
    exact ⟨Bool.or_true _, hhead⟩

/-- 44 R221: the frame decoder gives the entry whose words it is given. -/
theorem decodeFrame_entry {ri rdt : Word} (hident : ri.extractLsb' 1 31 = e.rir.extractLsb' 1 31)
    (hdlc : rdt.extractLsb' 0 4 = e.dlc) (hfmi : rdt.extractLsb' 8 8 = e.fmi)
    (htime : rdt.extractLsb' 16 16 = e.time) :
    decodeFrame ri rdt (e.data.extractLsb' 0 32) (e.data.extractLsb' 32 32)
      = .five (canon e.rir).toNat e.data.toNat e.dlc.toNat e.fmi.toNat e.time.toNat := by
  have hmobid : canon (ri &&& 0xFFFFFFFE) = canon e.rir := by
    rw [mobid_of_ident hident, ← mobid_of_ident rfl]
    exact canon_and_fullMask e.rir
  have hdata : unpack (e.data.extractLsb' 0 32) (e.data.extractLsb' 32 32) = e.data := packHi_append_packLo e.data
  rw [decodeFrame, hmobid, hdata, hdlc, hfmi, htime]

end

/-- Settles O48: the entry shown at the first read is shown at the three others. -/
theorem rxReadHead : Obligations.RxReadHead := by
  intro s c f rel e hf h
  have h1 := shows_afterRead h
  have h2 := shows_afterRead h1
  have h3 := shows_afterRead h2
  obtain ⟨ri, rdt, lo, hi, hri, hrdt, hlo, hhi, hok⟩ := rxReadBody_ok c f rel s
  obtain ⟨hdlc, hfmi, htime⟩ := hrdt e h1
  refine ⟨_, (rxRead_eq c f rel s).trans (command_ok hf hok), ?fault, ?results, ?fifo⟩
  case fault => simp [fault_rxReadEnd, fault_afterRead, hf]
  case results => rw [State.res_setRes, hlo e h2, hhi e h3, decodeFrame_entry (hri e h) hdlc hfmi htime]; rfl
  case fifo =>
    rw [State.fifo_setRes]
    exact rxReadEnd_shows (by rwa [State.fifo_advance]) rel

end Sys2Proof.Machine
end

section
/-! The registers of the interrupt table (45 R240): what a read of each says of its conditions, and the flags of the
word that IRQ.CLR writes back (R242). -/

namespace Sys2Proof.Machine

open Sys2Proof.Spec

/-! ### ORs over a list of rows -/

/-- A bit of an OR over a list stands in the start or in a member's word. -/
theorem getLsbD_foldl_or (l : List Nat) (f : Nat → Word) (a : Word) (i : Nat) :
    (l.foldl (fun w b => w ||| f b) a).getLsbD i = (a.getLsbD i || l.any fun b => (f b).getLsbD i) := by
  induction l generalizing a with
  | nil => simp
  | cons b l ih => rw [List.foldl_cons, ih, BitVec.getLsbD_or, List.any_cons, Bool.or_assoc]

theorem foldl_or_eq_zero_iff (l : List Nat) (f : Nat → Word) (a : Word) :
    l.foldl (fun w b => w ||| f b) a = 0 ↔ a = 0 ∧ ∀ b ∈ l, f b = 0 := by
  induction l generalizing a with
  | nil => simp
  | cons b l ih =>
    have hor : a ||| f b = 0 ↔ a = 0 ∧ f b = 0 := BitVec.or_eq_zero_iff
    rw [List.foldl_cons, ih, hor, List.forall_mem_cons, and_assoc]

theorem getLsbD_orBits (l : List Nat) {i : Nat} (hi : i < 32) : (orBits l).getLsbD i = l.contains i := by
  rw [orBits, getLsbD_foldl_or, List.contains_eq_any_beq]
  simp [hi, beq_eq_decide]

/-- A mask meets an OR of rows exactly where it asks for one of them. -/
theorem and_orBits_ne_zero_iff {l : List Nat} (hl : ∀ b ∈ l, b < 32) (k : Word) :
    k &&& orBits l ≠ 0 ↔ ∃ b ∈ l, k.getLsbD b = true := by
  constructor
  · contrapose!
    intro h
    ext i hi
    rw [← BitVec.getLsbD_eq_getElem, BitVec.getLsbD_and, getLsbD_orBits l hi]
    by_cases hm : i ∈ l
    · simp [h i hm]
    · simp [hm]
  · rintro ⟨b, hb, hk⟩ h0
    have hbit : (k &&& orBits l).getLsbD b = true := by simp [getLsbD_orBits l (hl b hb), hk, hb]
    rw [h0] at hbit
    simp at hbit

/-! ### The groups -/

/-- The register a group reads. -/
def IrqSource.reg : IrqSource → Reg
  | .tsr => .tsr
  | .rf0r => .rfr 0
  | .rf1r => .rfr 1
  | .esr => .esr
  | .msr => .msr

theorem IrqSource.offset_eq (g : IrqSource) : g.offset = g.reg.offset := by cases g <;> rfl

theorem IrqSource.reg_isFilter (g : IrqSource) : g.reg.isFilter = false := by cases g <;> rfl

theorem IrqSource.specified (g : IrqSource) (s : State) (c : Ctl) : Specified s c g.reg := by cases g <;> trivial

theorem IrqSource.memRead_offset (g : IrqSource) (c : Ctl) : memRead c g.offset 4 = readAt c g.reg := by
  rw [g.offset_eq, Machine.memRead_offset c g.reg (by simp [g.reg_isFilter])]

theorem IrqSource.memWrite_offset (g : IrqSource) (c : Ctl) (v : Word) :
    memWrite c g.offset 4 v = writeReg c g.reg v := by
  rw [g.offset_eq, Machine.memWrite_offset c g.reg v (by simp [g.reg_isFilter])]

theorem IrqSource.part_eq (g : IrqSource) : g.part = orBits g.bits := by cases g <;> decide

theorem IrqSource.bits_lt (g : IrqSource) : ∀ b ∈ g.bits, b < 32 := by cases g <;> decide

/-- 45, groups: the groups a mask visits are those it asks a row of. -/
theorem irqGroupsOf_eq (k : Word) : irqGroupsOf k = (irqVisited k).map IrqSource.bits := by
  have hgroups : irqGroups = irqSources.map IrqSource.bits := rfl
  rw [irqGroupsOf, hgroups, List.filter_map, irqVisited]
  refine congrArg _ (List.filter_congr fun g _ => ?_)
  rw [Bool.eq_iff_iff, bne_iff_ne, g.part_eq, and_orBits_ne_zero_iff g.bits_lt]
  simp

/-! ### The conditions in a read value -/

/-- Words that agree on a mask agree on a field the mask covers. -/
theorem extract_eq_of_and_eq {v w m : Word} (h : v &&& m = w &&& m) {lo len : Nat}
    (hm : m.extractLsb' lo len = BitVec.allOnes len) : v.extractLsb' lo len = w.extractLsb' lo len := by
  rw [← extract_and_ones hm v, h, extract_and_ones hm w]

/-- Where the FIFO holds at most three entries, FMP is 0 exactly when it is empty (10 R30, R41). -/
theorem fmp_ne_zero_iff {x : Fifo} (hx : x.inv) {v : Word} (hv : (v.extractLsb' 0 2).toNat = x.q.length % 4) :
    (v.extractLsb' 0 2 != 0) = true ↔ x.q ≠ [] := by
  obtain ⟨hlen, -, -⟩ := hx
  rw [Nat.mod_eq_of_lt (by omega)] at hv
  rw [bne_iff_ne, ne_eq, ← BitVec.toNat_inj, hv]
  exact not_congr List.length_eq_zero_iff

/-- cond(b, t) of R240 says of a value read what the state held when the register was read. -/
theorem irqCond_read {s : State} (hs : s.inv) {c : Ctl} {g : IrqSource} {v : Word} (hv : ReadsAs s c v g.reg)
    {b : Nat} (hb : b ∈ g.bits) : irqCond b v = true ↔ irqHolds s c b := by
  cases g with
  | tsr =>
    obtain ⟨hflags, -, -⟩ := hv
    have hrqcp (m : Fin 3) := (hflags m).1
    obtain rfl : b = 0 := List.mem_singleton.mp hb
    simp only [irqCond, irqHolds, ← hrqcp, Fin.exists_fin_succ, Bool.or_eq_true, or_assoc]
    simp
  | rf0r | rf1r =>
    obtain ⟨hfmp, hfull, hfovr, -⟩ := hv
    simp only [IrqSource.bits, List.mem_cons, List.not_mem_nil, or_false] at hb
    rcases hb with rfl | rfl | rfl
    · exact fmp_ne_zero_iff ((hs.ctl c).fifo _) hfmp
    · exact Bool.eq_iff_iff.mp hfull
    · exact Bool.eq_iff_iff.mp hfovr
  | esr =>
    have hlow : v.extractLsb' 0 3 = (s.ctl c).esr.extractLsb' 0 3 := extract_eq_of_and_eq hv (by decide)
    have hlec : v.extractLsb' 4 3 = (s.ctl c).esr.extractLsb' 4 3 := extract_eq_of_and_eq hv (by decide)
    simp only [IrqSource.bits, List.mem_cons, List.not_mem_nil, or_false] at hb
    rcases hb with rfl | rfl | rfl | rfl
    · exact Bool.eq_iff_iff.mp (getLsbD_of_extract hlow (by decide : 0 < 3))
    · exact Bool.eq_iff_iff.mp (getLsbD_of_extract hlow (by decide : 1 < 3))
    · exact Bool.eq_iff_iff.mp (getLsbD_of_extract hlow (by decide : 2 < 3))
    · rw [irqCond, irqHolds, hlec, bne_iff_ne]
  | msr =>
    obtain ⟨-, -, herri, hwkui, hslaki⟩ := hv
    simp only [IrqSource.bits, List.mem_cons, List.not_mem_nil, or_false] at hb
    rcases hb with rfl | rfl | rfl
    · exact Bool.eq_iff_iff.mp herri
    · exact Bool.eq_iff_iff.mp hwkui
    · exact Bool.eq_iff_iff.mp hslaki

/-! ### The word IRQ.CLR writes back -/

/-- Bit i is written where a row asked for, whose condition the read showed, clears it (45 R242). -/
theorem IrqSource.getLsbD_clearWord (g : IrqSource) (k t : Word) (i : Nat) :
    (g.clearWord k t).getLsbD i
      = g.bits.any fun b => (k.getLsbD b && irqCond b t) && (irqClearBits b t).getLsbD i := by
  rw [IrqSource.clearWord, getLsbD_foldl_or, IrqSource.hits, List.any_filter]
  simp

/-- The rows IRQ.CLR clears (45 R240). -/
def irqClearable : List Nat := [0, 2, 3, 5, 6, 15, 16, 17]

theorem irqClearBits_ne_zero_iff {g : IrqSource} {b : Nat} (hb : b ∈ g.bits) {t : Word} (ht : irqCond b t = true) :
    irqClearBits b t ≠ 0 ↔ b ∈ irqClearable := by
  cases g with
  | tsr =>
    obtain rfl : b = 0 := List.mem_singleton.mp hb
    have hmask : (0x00010101 : Word) = orBits [0, 8, 16] := by decide
    rw [irqClearBits, hmask, and_orBits_ne_zero_iff (by decide)]
    simpa [irqCond, irqClearable, or_assoc] using ht
  | rf0r | rf1r | msr =>
    simp only [IrqSource.bits, List.mem_cons, List.not_mem_nil, or_false] at hb
    rcases hb with rfl | rfl | rfl <;> simp [irqClearBits, irqClearable]
  | esr =>
    simp only [IrqSource.bits, List.mem_cons, List.not_mem_nil, or_false] at hb
    rcases hb with rfl | rfl | rfl | rfl <;> simp [irqClearBits, irqClearable]

/-- A write-back is due where a row that IRQ.CLR clears is asked for and its condition was read. -/
theorem IrqSource.clearWord_ne_zero_iff (g : IrqSource) (k t : Word) :
    g.clearWord k t ≠ 0 ↔ ∃ b ∈ irqClearable, (g.bits.contains b && k.getLsbD b) = true ∧ irqCond b t = true := by
  rw [IrqSource.clearWord, ne_eq, foldl_or_eq_zero_iff]
  simp only [IrqSource.hits, List.mem_filter, Bool.and_eq_true, List.contains_iff_mem, not_and_or, not_forall,
    not_true_eq_false, false_or, exists_prop]
  constructor
  · rintro ⟨b, ⟨hb, hk, ht⟩, hw⟩
    exact ⟨b, (irqClearBits_ne_zero_iff hb ht).mp hw, ⟨hb, hk⟩, ht⟩
  · rintro ⟨b, hc, ⟨hb, hk⟩, ht⟩
    exact ⟨b, ⟨hb, hk, ht⟩, (irqClearBits_ne_zero_iff hb ht).mpr hc⟩

end Sys2Proof.Machine
end

section
/-! One visit of a register by IRQ.PEND or IRQ.CLR (45 R241, R242), with any agent steps between the read and the
write. -/

namespace Sys2Proof.Machine

open Sys2Proof.Spec

/-! ### What the write-back clears -/

/-- A row of group g that the mask k asks for. -/
def IrqSource.asks (g : IrqSource) (k : Word) (b : Nat) : Bool := g.bits.contains b && k.getLsbD b

/-- A TSR write with 1 in RQCPm only clears that flag and the three that go with it, of mailbox m (40 R135). -/
theorem Mailbox.tsrWritten_rqcp (x : Mailbox) {v : Word} {b : Nat}
    (hv : ∀ j ∈ [1, 2, 3, 7], v.getLsbD (b + j) = false) :
    x.tsrWritten v b = if v.getLsbD b then withoutCompletion x else x := by
  simp only [List.forall_mem_cons] at hv
  obtain ⟨h1, h2, h3, h7, -⟩ := hv
  cases h : v.getLsbD b <;> simp [Mailbox.tsrWritten, withoutCompletion, h, h1, h2, h3, h7]

/-- An RFfR write with RFOM 0 clears FULL and FOVR only (40 R136). -/
theorem Fifo.rfrWritten_flags (x : Fifo) {v : Word} (hv : v.getLsbD 5 = false) :
    x.rfrWritten v = { x with full := x.full && !v.getLsbD 3, fovr := x.fovr && !v.getLsbD 4 } := by
  rw [Fifo.rfrWritten, hv, Bool.false_and, Bool.or_false]

section
variable {s : State} {c : Ctl} {k v : Word}

theorem irqCond_of_rqcp {m : Fin 3} (h : v.getLsbD (8 * m.val) = true) : irqCond 0 v = true := by
  rw [irqCond, Bool.or_eq_true, Bool.or_eq_true]
  match m with
  | 0 => exact .inl (.inl h)
  | 1 => exact .inl (.inr h)
  | 2 => exact .inr h

theorem tsr_clearWord (hv : ReadsAs s c v .tsr) (m : Fin 3) :
    (IrqSource.tsr.clearWord k v).getLsbD (8 * m.val) = (IrqSource.tsr.asks k 0 && (s.mb c m).rqcp)
    ∧ ∀ j ∈ [1, 2, 3, 7], (IrqSource.tsr.clearWord k v).getLsbD (8 * m.val + j) = false := by
  obtain ⟨hflags, -, -⟩ := hv
  obtain ⟨hrqcp, -⟩ := hflags m
  have hword (i : Nat) : (IrqSource.tsr.clearWord k v).getLsbD i
      = ((k.getLsbD 0 && irqCond 0 v) && (v.getLsbD i && (0x00010101 : Word).getLsbD i)) := by
    rw [IrqSource.getLsbD_clearWord]
    exact (Bool.or_false _).trans (congrArg _ (BitVec.getLsbD_and ..))
  constructor
  · have hmask : ∀ m : Fin 3, (0x00010101 : Word).getLsbD (8 * m.val) = true := by decide
    rw [hword, hmask m, ← hrqcp]
    cases h : v.getLsbD (8 * m.val) with
    | false => simp
    | true => rw [irqCond_of_rqcp h]; simp [IrqSource.asks, IrqSource.bits]
  · intro j hj
    have hmask : ∀ m : Fin 3, ∀ j ∈ [1, 2, 3, 7], (0x00010101 : Word).getLsbD (8 * m.val + j) = false := by decide
    rw [hword, hmask m j hj, Bool.and_false, Bool.and_false]

theorem msr_clearWord (hv : ReadsAs s c v .msr) :
    let w := IrqSource.msr.clearWord k v
    let ask := IrqSource.msr.asks k
    w.getLsbD 2 = (ask 15 && (s.ctl c).msr.erri) ∧ w.getLsbD 3 = (ask 16 && (s.ctl c).msr.wkui)
      ∧ w.getLsbD 4 = (ask 17 && (s.ctl c).msr.slaki) := by
  obtain ⟨-, -, herri, hwkui, hslaki⟩ := hv
  simp only [IrqSource.getLsbD_clearWord]
  simp [IrqSource.bits, IrqSource.asks, irqCond, irqClearBits, ← herri, ← hwkui, ← hslaki]

theorem rf0r_clearWord (hv : ReadsAs s c v (.rfr 0)) :
    let w := IrqSource.rf0r.clearWord k v
    let ask := IrqSource.rf0r.asks k
    w.getLsbD 3 = (ask 2 && (s.fifo c 0).full) ∧ w.getLsbD 4 = (ask 3 && (s.fifo c 0).fovr) ∧ w.getLsbD 5 = false := by
  obtain ⟨-, hfull, hfovr, -⟩ := hv
  simp only [IrqSource.getLsbD_clearWord]
  simp [IrqSource.bits, IrqSource.asks, irqCond, irqClearBits, ← hfull, ← hfovr]

theorem rf1r_clearWord (hv : ReadsAs s c v (.rfr 1)) :
    let w := IrqSource.rf1r.clearWord k v
    let ask := IrqSource.rf1r.asks k
    w.getLsbD 3 = (ask 5 && (s.fifo c 1).full) ∧ w.getLsbD 4 = (ask 6 && (s.fifo c 1).fovr) ∧ w.getLsbD 5 = false := by
  obtain ⟨-, hfull, hfovr, -⟩ := hv
  simp only [IrqSource.getLsbD_clearWord]
  simp [IrqSource.bits, IrqSource.asks, irqCond, irqClearBits, ← hfull, ← hfovr]

/-- The write-back to a group's register clears just the flags asked for that the read showed (45 R242). -/
theorem IrqSource.writeReg_clearWord {g : IrqSource} (hv : ReadsAs s c v g.reg) (hw : g.clearWord k v ≠ 0) (u : State) :
    ∃ r, writeReg c g.reg (g.clearWord k v) u = .ok () (u.setCtl c r)
      ∧ SeenCleared (g.asks k) (s.ctl c) (u.ctl c) r := by
  cases g with
  | tsr =>
    refine ⟨_, writeTsr_apply c _ u, fun m => ?mailbox, ?fifo0, ?fifo1, ?rest⟩
    case mailbox =>
      obtain ⟨hbit, hrest⟩ := tsr_clearWord (k := k) hv m
      rw [Ctrl.mb_tsrWritten, Mailbox.tsrWritten_rqcp _ hrest, hbit]
      rfl
    case fifo0 => simp [asks, bits, Ctrl.tsrWritten]
    case fifo1 => simp [asks, bits, Ctrl.tsrWritten]
    case rest => simp [asks, bits, Ctrl.tsrWritten, Ctrl.setMb]
  | rf0r =>
    obtain ⟨hfull, hfovr, hrfom⟩ := rf0r_clearWord (k := k) hv
    refine ⟨_, rfl, fun m => ?mailbox, ?fifo0, ?fifo1, ?rest⟩
    case mailbox => simp [asks, bits]
    case fifo0 => rw [Ctrl.fifo_setFifo_self, Fifo.rfrWritten_flags _ hrfom, hfull, hfovr]; rfl
    case fifo1 => simp [asks, bits]
    case rest => simp [asks, bits, Ctrl.setFifo]
  | rf1r =>
    obtain ⟨hfull, hfovr, hrfom⟩ := rf1r_clearWord (k := k) hv
    refine ⟨_, rfl, fun m => ?mailbox, ?fifo0, ?fifo1, ?rest⟩
    case mailbox => simp [asks, bits]
    case fifo0 => simp [asks, bits]
    case fifo1 => rw [Ctrl.fifo_setFifo_self, Fifo.rfrWritten_flags _ hrfom, hfull, hfovr]; rfl
    case rest => simp [asks, bits, Ctrl.setFifo]
  | esr =>
    obtain ⟨b, hb, hask, -⟩ := (clearWord_ne_zero_iff ..).mp hw
    revert b
    simp [irqClearable, bits]
  | msr =>
    obtain ⟨herri, hwkui, hslaki⟩ := msr_clearWord (k := k) hv
    refine ⟨_, rfl, fun m => ?mailbox, ?fifo0, ?fifo1, ?rest⟩
    case mailbox => simp [asks, bits, Ctrl.mb]
    case fifo0 => simp [asks, bits, Ctrl.fifo]
    case fifo1 => simp [asks, bits, Ctrl.fifo]
    case rest => rw [herri, hwkui, hslaki]

/-! ### One visit -/

/-- 45 R242: IRQ.CLR's accesses to one register, after a read of it that gave v. -/
theorem irqWriteBack_visit (hs : s.inv) {g : IrqSource} (hv : ReadsAs s c v g.reg) :
    ∃ t, irqWriteBack c g (g.clearWord k v) (s.advance 2) = .ok () t ∧ ClearVisit c (g.asks k) s t ∧ t.inv := by
  have hinv : (endState (irqWriteBack c g (g.clearWord k v) (s.advance 2))).inv :=
    (accessInvariant_inv c false).irqWriteBack _ hs
  have hshown : g.clearWord k v ≠ 0 ↔ ∃ b ∈ irqClearable, g.asks k b = true ∧ irqHolds s c b := by
    rw [IrqSource.clearWord_ne_zero_iff]
    refine exists_congr fun b => and_congr_right fun _ => and_congr_right fun hask => irqCond_read hs hv ?_
    exact List.contains_iff_mem.mp (Bool.and_eq_true_iff.mp hask).1
  by_cases hw : g.clearWord k v = 0
  case pos =>
    have hok : irqWriteBack c g (g.clearWord k v) (s.advance 2) = .ok () (s.advance 2) := by
      rw [irqWriteBack, if_pos hw, Cmd.pure_apply]
    exact ⟨_, hok, ⟨fun h => absurd hw (hshown.mpr h), fun _ => rfl⟩, hs⟩
  case neg =>
    obtain ⟨r, hr, hclear⟩ := IrqSource.writeReg_clearWord hv hw (runGap (s.advance 2))
    have hok : irqWriteBack c g (g.clearWord k v) (s.advance 2) = .ok () ((runGap (s.advance 2)).setCtl c r) := by
      rw [irqWriteBack, if_neg hw, Cmd.bind_ok (gap_apply _), g.memWrite_offset, hr]
    rw [hok] at hinv
    refine ⟨_, hok, ⟨fun _ => ?_, fun h => absurd (hshown.mp hw) h⟩, hinv⟩
    rw [State.ctl_setCtl_self]
    exact ⟨hclear, rfl⟩

end

/-! ### The loops -/

/-- The loop of both commands: each group is read, then written back by `back`, before the gap to the next (45 R241,
R242). -/
def irqLoop (back : IrqSource → Word → Cmd Unit) (c : Ctl) (k : Word) : List IrqSource → Word → Cmd Word
  | [], p => pure p
  | g :: gs, p => do
    let t ← memRead c g.offset 4
    back g t
    gapBefore gs
    irqLoop back c k gs (p ||| orBits (g.hits k t))

theorem irqPendLoop_eq (c : Ctl) (k : Word) (gs : List IrqSource) (p : Word) :
    irqPendLoop c k gs p = irqLoop (fun _ _ => pure ()) c k gs p := by
  induction gs generalizing p with
  | nil => rfl
  | cons g gs ih => simp only [irqPendLoop, irqLoop, ih, pure_bind]

theorem irqClrLoop_eq (c : Ctl) (k : Word) (gs : List IrqSource) (p : Word) :
    irqClrLoop c k gs p = irqLoop (fun g t => irqWriteBack c g (g.clearWord k t)) c k gs p := by
  induction gs generalizing p with
  | nil => rfl
  | cons g gs ih => simp only [irqClrLoop, irqLoop, ih]

theorem gapBefore_apply (gs : List IrqSource) (s : State) :
    gapBefore gs s = .ok () (if gs = [] then s else runGap s) := by
  cases gs with
  | nil => rfl
  | cons g gs => rw [if_neg (List.cons_ne_nil g gs)]; rfl

section
variable {visit : (Nat → Bool) → State → State → Prop} {back : IrqSource → Word → Cmd Unit} {c : Ctl}
variable {k : Word}

/-- After the read of a group the write-back is a visit of its register, and keeps the invariant. -/
def Visits (visit : (Nat → Bool) → State → State → Prop) (back : IrqSource → Word → Cmd Unit) (c : Ctl) (k : Word) :
    Prop :=
  ∀ (s : State) (g : IrqSource) (v : Word), s.inv → ReadsAs s c v g.reg →
    ∃ t, back g v (s.advance 2) = .ok () t ∧ visit (g.asks k) s t ∧ t.inv

theorem visits_pend : Visits PendVisit (fun _ _ => pure ()) c k := fun _ _ _ hs _ => ⟨_, rfl, rfl, hs⟩

theorem visits_clear : Visits (ClearVisit c) (fun g t => irqWriteBack c g (g.clearWord k t)) c k :=
  fun _ _ _ hs hv => irqWriteBack_visit hs hv

/-- The loop visits its groups one after the other, whatever agent steps fall between them. -/
theorem irqLoop_visits (hback : Visits visit back c k) (gs : List IrqSource) (p : Word) {s : State} (hs : s.inv) :
    ∃ t q, IrqVisits visit c k (gs.map IrqSource.bits) s t q ∧ irqLoop back c k gs p s = .ok (p ||| q) t := by
  induction gs generalizing p s with
  | nil => exact ⟨s, 0, ⟨rfl, rfl⟩, congrArg (EStateM.Result.ok · s) BitVec.or_zero.symm⟩
  | cons g gs ih =>
    obtain ⟨v, hval, hv⟩ := readReg_specified (g.specified s c)
    obtain ⟨u, hu, hvisit, hinv⟩ := hback s g v hs hv
    have hnext : (if gs = [] then u else runGap u).inv := by
      split
      · exact hinv
      · exact hinv.runGap
    obtain ⟨t, q, ht, hloop⟩ := ih (p ||| orBits (g.hits k v)) hnext
    refine ⟨t, orBits (g.hits k v) ||| q, ⟨u, q, hvisit, ?visits, fun b hb => ?report⟩, ?run⟩
    case visits => simpa only [List.map_eq_nil_iff] using ht
    case report =>
      rw [BitVec.getLsbD_or, getLsbD_orBits _ hb, Bool.or_eq_true, List.contains_iff_mem, IrqSource.hits,
        List.mem_filter, Bool.and_eq_true]
      exact or_congr_left (and_congr_right fun hg => and_congr_right fun _ => irqCond_read hs hv hg)
    case run =>
      rw [irqLoop, g.memRead_offset, Cmd.bind_ok (readAt_ok hval), Cmd.bind_ok hu, Cmd.bind_ok (gapBefore_apply gs u),
        hloop, BitVec.or_assoc]

end

/-! ### The mask operand -/

section
variable {s : State}

theorem irqOperand_apply (hfit : s.ops.x1 < 2 ^ 32) :
    irqOperand s = if word s 1 &&& ~~~irqMask = 0 then .ok (word s 1) s else .error (.operandRange 1 s.ops.x1) s := by
  have hval : (word s 1).toNat = s.ops.x1 := Nat.mod_eq_of_lt hfit
  rw [irqOperand, Cmd.bind_ok (operandWord_ok (i := 1) hfit), ← hval]
  split <;> rfl

/-- 45 R241, R242: a mask bit outside IRQMASK ends either command before its first read. -/
theorem irq_badMask {body : Word → Cmd Results} (hf : s.fault = none) (hfit : s.ops.x1 < 2 ^ 32) (h : ¬ MaskOk s) :
    command s (irqOperand >>= body)
      = .next { s with fault := some (.operandRange 1 s.ops.x1), res := Results.absent } := by
  have hbad : irqOperand s = .error (.operandRange 1 s.ops.x1) s :=
    (irqOperand_apply hfit).trans (if_neg fun h0 => h ⟨hfit, h0⟩)
  rw [command_error hf (Cmd.bind_error hbad), recordFault_of_none hf]

/-- 45 R241, R242: with a legal mask either command answers what its visits found. -/
theorem irq_visits {visit : (Nat → Bool) → State → State → Prop} {back : Word → IrqSource → Word → Cmd Unit} {c : Ctl}
    (hback : ∀ k, Visits visit (back k) c k) (hf : s.fault = none) (h : MaskOk s) (hs : s.inv) (f : Word → Results) :
    ∃ t p, IrqVisits visit c (word s 1) (irqGroupsOf (word s 1)) s t p
      ∧ command s (do
          let k ← irqOperand
          let p ← irqLoop (back k) c k (irqVisited k) 0
          return f p) = .next (t.setRes (f p)) := by
  obtain ⟨hfit, hmask⟩ := h
  obtain ⟨t, p, ht, hloop⟩ := irqLoop_visits (hback (word s 1)) (irqVisited (word s 1)) 0 hs
  have hok : irqOperand s = .ok (word s 1) s := (irqOperand_apply hfit).trans (if_pos hmask)
  have hzero : 0 ||| p = p := BitVec.zero_or
  rw [irqGroupsOf_eq]
  refine ⟨t, p, ht, command_ok hf ?_⟩
  rw [Cmd.bind_ok hok, Cmd.bind_ok hloop, hzero, Cmd.pure_apply]

end

/-- Settles O54: both commands run `irqLoop`, and the accesses to one register are its visit. -/
theorem irqInterleaved : Obligations.IrqInterleaved := by
  intro s c hf hmask hs k
  constructor
  · have hpend := irq_visits (fun _ => visits_pend (c := c)) hf hmask hs fun p => Results.two (p != 0).toNat p.toNat
    simp only [← irqPendLoop_eq] at hpend
    exact hpend
  · have hclr := irq_visits (fun _ => visits_clear (c := c)) hf hmask hs fun p => Results.one p.toNat
    simp only [← irqClrLoop_eq] at hclr
    exact hclr

end Sys2Proof.Machine
end

section
/-! IRQ.PEND and IRQ.CLR with quiet gaps (45 R241, R242): the visits of IRQ.CLR add up to one clearing of the flags
asked for, and no visit hides a row of a later one. -/

namespace Sys2Proof.Machine

open Sys2Proof.Spec

/-! ### The clearing -/

/-- A FIFO without FULL or FOVR where these are asked for. -/
def Fifo.irqCleared (x : Fifo) (full fovr : Bool) : Fifo :=
  { x with full := x.full && !full, fovr := x.fovr && !fovr }

/-- A controller without the flags asked for (45 R242). -/
def Ctrl.irqCleared (r : Ctrl) (ask : Nat → Bool) : Ctrl :=
  { r with
    mbs := r.mbs.map fun x => irqClearedMailbox x (ask 0)
    fifos := #v[(r.fifo 0).irqCleared (ask 2) (ask 3), (r.fifo 1).irqCleared (ask 5) (ask 6)]
    msr := { r.msr with
      erri := r.msr.erri && !ask 15
      wkui := r.msr.wkui && !ask 16
      slaki := r.msr.slaki && !ask 17 } }

section
variable (r : Ctrl) (ask : Nat → Bool)

@[simp] theorem Ctrl.mb_irqCleared (m : Fin 3) : (r.irqCleared ask).mb m = irqClearedMailbox (r.mb m) (ask 0) := by
  simp [Ctrl.mb, Ctrl.irqCleared, Vector.get_eq_getElem]

@[simp] theorem Ctrl.fifo_irqCleared_zero :
    (r.irqCleared ask).fifo 0 = (r.fifo 0).irqCleared (ask 2) (ask 3) := rfl

@[simp] theorem Ctrl.fifo_irqCleared_one :
    (r.irqCleared ask).fifo 1 = (r.fifo 1).irqCleared (ask 5) (ask 6) := rfl

@[simp] theorem Ctrl.esr_irqCleared : (r.irqCleared ask).esr = r.esr := rfl
@[simp] theorem Ctrl.erri_irqCleared : (r.irqCleared ask).msr.erri = (r.msr.erri && !ask 15) := rfl
@[simp] theorem Ctrl.wkui_irqCleared : (r.irqCleared ask).msr.wkui = (r.msr.wkui && !ask 16) := rfl
@[simp] theorem Ctrl.slaki_irqCleared : (r.irqCleared ask).msr.slaki = (r.msr.slaki && !ask 17) := rfl

/-- Two controllers that differ in no mailbox, no FIFO and no other field are one. -/
theorem Ctrl.eq_of_parts {r r' : Ctrl} (hmb : ∀ m, r.mb m = r'.mb m) (h0 : r.fifo 0 = r'.fifo 0)
    (h1 : r.fifo 1 = r'.fifo 1) (hrest : r = { r' with mbs := r.mbs, fifos := r.fifos }) : r = r' := by
  have hmbs : r.mbs = r'.mbs := Vector.ext fun i hi => hmb ⟨i, hi⟩
  have hfifos : r.fifos = r'.fifos := Vector.ext fun i hi => by
    match i, hi with
    | 0, _ => exact h0
    | 1, _ => exact h1
  rw [hrest, hmbs, hfifos]

theorem irqClearedMailbox_twice (x : Mailbox) (a b : Bool) :
    irqClearedMailbox (irqClearedMailbox x a) b = irqClearedMailbox x (a || b) := by
  cases a with
  | false => simp [irqClearedMailbox]
  | true => cases h : x.rqcp <;> simp [irqClearedMailbox, withoutCompletion, h]

/-- Clearing what a asks for and then what b asks for clears what either asks for. -/
theorem Ctrl.irqCleared_irqCleared (a b : Nat → Bool) :
    (r.irqCleared a).irqCleared b = r.irqCleared fun i => a i || b i := by
  refine Ctrl.eq_of_parts (fun m => ?_) ?_ ?_ ?_
  · simp [irqClearedMailbox_twice]
  · simp [Fifo.irqCleared, Bool.and_assoc]
  · simp [Fifo.irqCleared, Bool.and_assoc]
  · simp [Ctrl.irqCleared, Bool.and_assoc]

theorem Ctrl.irqCleared_none : (r.irqCleared fun _ => false) = r := by
  refine Ctrl.eq_of_parts (fun m => ?_) ?_ ?_ ?_
  · simp [irqClearedMailbox]
  · simp [Fifo.irqCleared]
  · simp [Fifo.irqCleared]
  · simp [Ctrl.irqCleared]

theorem Ctrl.irqCleared_congr {a b : Nat → Bool} (h : ∀ i ∈ irqClearable, a i = b i) :
    r.irqCleared a = r.irqCleared b := by
  simp only [irqClearable, List.forall_mem_cons] at h
  obtain ⟨h0, h2, h3, h5, h6, h15, h16, h17, -⟩ := h
  simp only [Ctrl.irqCleared, h0, h2, h3, h5, h6, h15, h16, h17]

theorem and_not_ask_and (x a : Bool) : (x && !(a && x)) = (x && !a) := by cases x <;> simp

/-- Where no flag asked for is set there is nothing to clear. -/
theorem seenCleared_self {s : State} {c : Ctl} (h : ∀ b ∈ irqClearable, ask b = true → ¬ irqHolds s c b) :
    SeenCleared ask (s.ctl c) (s.ctl c) (s.ctl c) := by
  simp only [irqClearable, List.forall_mem_cons] at h
  obtain ⟨h0, h2, h3, h5, h6, h15, h16, h17, -⟩ := h
  have hflag {a x : Bool} (hx : a = true → ¬ x = true) : (x && !(a && x)) = x := by
    cases a
    · simp
    · simp [hx rfl]
  refine ⟨fun m => ?_, ?_, ?_, ?_⟩
  · refine (if_neg fun hm => ?_).symm
    obtain ⟨hask, hrqcp⟩ := Bool.and_eq_true_iff.mp hm
    exact h0 hask ⟨m, hrqcp⟩
  · rw [← State.fifo_def, hflag h2, hflag h3]
  · rw [← State.fifo_def, hflag h5, hflag h6]
  · rw [hflag h15, hflag h16, hflag h17]

/-- Where the write sees what the read saw, the flags asked for are clear after it. -/
theorem eq_irqCleared_of_seenCleared {v : Ctrl} (h : SeenCleared ask r r v) : v = r.irqCleared ask := by
  obtain ⟨hmb, h0, h1, hrest⟩ := h
  simp only [and_not_ask_and] at h0 h1 hrest
  exact Ctrl.eq_of_parts (fun m => (hmb m).trans (r.mb_irqCleared ask m).symm) h0 h1 hrest

end

/-! ### The state after a clearing -/

/-- The state after n draws and the clearing of the flags asked for in controller c. -/
def State.irqCleared (s : State) (c : Ctl) (ask : Nat → Bool) (n : Nat) : State :=
  (s.advance n).setCtl c ((s.ctl c).irqCleared ask)

section
variable (s : State) (c : Ctl) (ask : Nat → Bool) (n : Nat)

@[simp] theorem State.ctl_irqCleared_self : (s.irqCleared c ask n).ctl c = (s.ctl c).irqCleared ask :=
  State.ctl_setCtl_self ..

@[simp] theorem State.gaps_irqCleared : (s.irqCleared c ask n).gaps = s.gaps := State.gaps_setCtl ..

theorem State.irqCleared_none : (s.irqCleared c (fun _ => false) n) = s.advance n := by
  rw [State.irqCleared, Ctrl.irqCleared_none]
  exact (s.advance n).setCtl_ctl c

theorem State.irqCleared_irqCleared (ask' : Nat → Bool) (n' : Nat) :
    (s.irqCleared c ask n).irqCleared c ask' n' = s.irqCleared c (fun b => ask b || ask' b) (n + n') := by
  have hadv : (s.irqCleared c ask n).advance n' = (s.advance (n + n')).setCtl c ((s.ctl c).irqCleared ask) := by
    rw [← State.advance_advance]
    cases c <;> rfl
  rw [State.irqCleared, State.ctl_irqCleared_self, hadv, State.setCtl_setCtl, Ctrl.irqCleared_irqCleared]
  rfl

variable {ask}

/-- A condition that is not asked for holds after the clearing where it held before. -/
theorem irqHolds_irqCleared {b : Nat} (h : ask b = false) : irqHolds (s.irqCleared c ask n) c b ↔ irqHolds s c b := by
  unfold irqHolds
  split <;> simp [State.mb_def, State.fifo_def, irqClearedMailbox, Fifo.irqCleared, h]

end

/-! ### The visits -/

/-- With quiet gaps a visit takes its read's two draw numbers and clears the flags asked for, or (w = false) none. -/
def QuietVisit (visit : (Nat → Bool) → State → State → Prop) (c : Ctl) (w : Bool) : Prop :=
  ∀ (ask : Nat → Bool) (s t : State), s.quiet → visit ask s t → t = s.irqCleared c (fun b => w && ask b) 2

theorem quietVisit_pend (c : Ctl) : QuietVisit PendVisit c false :=
  fun _ s _ _ h => h.trans (s.irqCleared_none c 2).symm

theorem quietVisit_clear (c : Ctl) : QuietVisit (ClearVisit c) c true := by
  rintro ask s t hq ⟨hshown, hnot⟩
  rw [runGap_quiet (s := s.advance 2) hq, State.ctl_advance] at hshown
  by_cases h : ∃ b ∈ irqClearable, ask b = true ∧ irqHolds s c b
  case pos =>
    obtain ⟨hclear, ht⟩ := hshown h
    rw [eq_irqCleared_of_seenCleared _ _ hclear] at ht
    exact ht
  case neg =>
    have hself : SeenCleared ask (s.ctl c) (s.ctl c) (s.ctl c) :=
      seenCleared_self ask fun b hb hask hholds => h ⟨b, hb, hask, hholds⟩
    calc t = (s.advance 2).setCtl c (s.ctl c) := (hnot h).trans ((s.advance 2).setCtl_ctl c).symm
      _ = s.irqCleared c ask 2 := congrArg _ (eq_irqCleared_of_seenCleared _ _ hself)

/-- With quiet gaps the visits of an interrupt command report what held at its start, and clear together what each of
them clears. -/
theorem irqVisits_quiet {visit : (Nat → Bool) → State → State → Prop} {c : Ctl} {w : Bool} (hv : QuietVisit visit c w)
    {k : Word} {gs : List (List Nat)} (hgs : gs.flatten.Nodup) {s t : State} {p : Word} (hq : s.quiet)
    (h : IrqVisits visit c k gs s t p) :
    (∃ n, t = s.irqCleared c (fun b => w && (gs.flatten.contains b && k.getLsbD b)) n)
    ∧ ∀ b < 32, p.getLsbD b = true ↔ b ∈ gs.flatten ∧ k.getLsbD b = true ∧ irqHolds s c b := by
  induction gs generalizing s p with
  | nil =>
    obtain ⟨rfl, rfl⟩ := h
    refine ⟨⟨0, ?_⟩, fun b _ => by simp⟩
    simp only [List.flatten_nil, List.contains_nil, Bool.false_and, Bool.and_false]
    exact (t.irqCleared_none c 0).symm
  | cons g gs ih =>
    obtain ⟨u, q, hvisit, hrest, hp⟩ := h
    rw [List.flatten_cons, List.nodup_append'] at hgs
    obtain ⟨-, hnodup, hdisj⟩ := hgs
    have hu := hv _ _ _ hq hvisit
    have hqu : u.quiet := by rw [hu, State.quiet, State.gaps_irqCleared]; exact hq
    rw [runGap_quiet hqu, ite_self] at hrest
    obtain ⟨⟨n, hn⟩, hq'⟩ := ih hnodup hqu hrest
    refine ⟨⟨2 + n, ?_⟩, fun b hb => ?_⟩
    · rw [hn, hu, State.irqCleared_irqCleared]
      congr 1
      funext b
      cases w <;> cases k.getLsbD b <;> simp
    · have hlater : b ∈ gs.flatten → (irqHolds u c b ↔ irqHolds s c b) := by
        intro hmem
        rw [hu]
        refine irqHolds_irqCleared s c 2 ?_
        have hg : b ∉ g := fun hbg => hdisj hbg hmem
        simp [hg]
      rw [hp b hb, hq' b hb, List.flatten_cons, List.mem_append, or_and_right]
      exact or_congr_right (and_congr_right fun hmem => and_congr_right fun _ => hlater hmem)

/-! ### The rows a mask asks for -/

theorem irqGroupsOf_nodup (k : Word) : (irqGroupsOf k).flatten.Nodup :=
  List.Nodup.sublist (List.filter_sublist).flatten (by decide : irqGroups.flatten.Nodup)

/-- A row of the table that a mask asks for stands in a group it visits. -/
theorem mem_irqGroupsOf {k : Word} {b : Nat} (hb : b ∈ irqGroups.flatten) (hk : k.getLsbD b = true) :
    b ∈ (irqGroupsOf k).flatten := by
  obtain ⟨g, hg, hbg⟩ := List.mem_flatten.mp hb
  exact List.mem_flatten.mpr ⟨g, List.mem_filter.mpr ⟨hg, List.any_eq_true.mpr ⟨b, hbg, hk⟩⟩, hbg⟩

theorem mem_irqGroups_of_irqHolds {s : State} {c : Ctl} {b : Nat} (h : irqHolds s c b) : b ∈ irqGroups.flatten := by
  unfold irqHolds at h
  split at h
  case h_15 => exact h.elim
  all_goals decide

/-- 45 R240: the rows reported are those asked for whose condition held. -/
theorem mem_irqGroupsOf_and_iff {s : State} {c : Ctl} {k : Word} {b : Nat} :
    (b ∈ (irqGroupsOf k).flatten ∧ k.getLsbD b = true ∧ irqHolds s c b) ↔ k.getLsbD b = true ∧ irqHolds s c b :=
  and_iff_right_of_imp fun ⟨hk, hholds⟩ => mem_irqGroupsOf (mem_irqGroups_of_irqHolds hholds) hk

theorem contains_irqGroupsOf_and {k : Word} {b : Nat} (hb : b ∈ irqGroups.flatten) :
    ((irqGroupsOf k).flatten.contains b && k.getLsbD b) = k.getLsbD b := by
  cases hk : k.getLsbD b with
  | false => rw [Bool.and_false]
  | true => rw [Bool.and_true, List.contains_iff_mem.mpr (mem_irqGroupsOf hb hk)]

/-- Settles O51: with quiet gaps the visits of `irqInterleaved` report what held at the start, and clear nothing. -/
theorem irqPend : Obligations.IrqPend := by
  intro s c hf
  refine ⟨fun hmask hq hs => ?_, fun hfit hmask => irq_badMask hf hfit hmask⟩
  obtain ⟨⟨t, p, hvisits, hexec⟩, -⟩ := irqInterleaved s c hf hmask hs
  obtain ⟨⟨n, ht⟩, hp⟩ := irqVisits_quiet (quietVisit_pend c) (irqGroupsOf_nodup _) hq hvisits
  simp only [Bool.false_and, State.irqCleared_none] at ht
  subst ht
  exact ⟨_, p, hexec, hf, sameBlock_refl s, rfl, fun b hb => (hp b hb).trans mem_irqGroupsOf_and_iff⟩

/-- Settles O52: with quiet gaps the visits of `irqInterleaved` report what held at the start, and clear together what
the mask asks for. -/
theorem irqClr : Obligations.IrqClr := by
  intro s c hf ask
  refine ⟨fun hmask hq hs => ?_, fun hfit hmask => irq_badMask hf hfit hmask⟩
  obtain ⟨-, t, p, hvisits, hexec⟩ := irqInterleaved s c hf hmask hs
  obtain ⟨⟨n, ht⟩, hp⟩ := irqVisits_quiet (quietVisit_clear c) (irqGroupsOf_nodup _) hq hvisits
  have hclear : (s.ctl c).irqCleared (fun b => true && ((irqGroupsOf (word s 1)).flatten.contains b && ask b))
      = (s.ctl c).irqCleared ask :=
    Ctrl.irqCleared_congr _ fun b hb => contains_irqGroupsOf_and ((by decide : irqClearable ⊆ irqGroups.flatten) hb)
  rw [State.irqCleared, hclear] at ht
  subst ht
  have hctl (x : Results) : ((((s.advance n).setCtl c ((s.ctl c).irqCleared ask)).setRes x).ctl c)
      = (s.ctl c).irqCleared ask := by rw [State.ctl_setRes, State.ctl_setCtl_self]
  refine ⟨_, p, hexec, ?fault, rfl, fun b hb => (hp b hb).trans mem_irqGroupsOf_and_iff, fun m => ?mailbox, ?fifo0,
    ?fifo1, ?rest, fun d hd => ?other, ?filters, ?params⟩
  case fault => simp [hf]
  case mailbox => rw [State.mb_def, hctl, Ctrl.mb_irqCleared]; rfl
  case fifo0 => rw [State.fifo_def, hctl]; rfl
  case fifo1 => rw [State.fifo_def, hctl]; rfl
  case rest => rw [hctl]; rfl
  case other => simp [hd]
  case filters => simp
  case params => simp

end Sys2Proof.Machine
end

section
/-! The address codec (46 R255 to R265): a canonical MOBID as its fields, the four comparisons bit by bit and field by
field, and the MOBIDs that ID.MKSTD and ID.MKEXT build, as sums that ID.FIELDS divides again. -/

namespace Sys2Proof.Machine

open Sys2Proof.Spec

/-! ### The canonical MOBID as its fields -/

theorem canon_ext (m : Word) : (canon m).extractLsb' 3 18 = if m.getLsbD 2 then m.extractLsb' 3 18 else 0 :=
  extract_canon_of_ext (by decide) (by decide) m

/-- The identifier of an extended MOBID is kept (30 R102, R103). -/
theorem canon_id29 {m : Word} (h : m.getLsbD 2 = true) : (canon m).extractLsb' 3 29 = m.extractLsb' 3 29 := by
  have hones : fullMask.extractLsb' 3 29 = BitVec.allOnes 29 := by decide
  rw [canon_eq_and_sel, sel, if_pos h, extract_and_ones hones]

/-- A word is the fields of a MOBID in their places (30 R100). -/
theorem append_std_ext_ide_rtr (v : Word) :
    v.extractLsb' 21 11 ++ v.extractLsb' 3 18 ++ v.extractLsb' 2 1 ++ v.extractLsb' 1 1 ++ v.extractLsb' 0 1 = v := by
  rw [BitVec.extractLsb'_append_extractLsb'_eq_extractLsb' (by rfl : 21 = 3 + 18),
    BitVec.extractLsb'_append_extractLsb'_eq_extractLsb' (by rfl : 3 = 2 + 1),
    BitVec.extractLsb'_append_extractLsb'_eq_extractLsb' (by rfl : 2 = 1 + 1),
    BitVec.extractLsb'_append_extractLsb'_eq_extractLsb' (by rfl : 1 = 0 + 1)]
  exact BitVec.extractLsb'_eq_self

/-- 46 R255, 30 R103: EXT is cleared where IDE is, and bit 0 always. -/
theorem canon_eq_append (m : Word) :
    canon m = m.extractLsb' 21 11 ++ (if m.getLsbD 2 then m.extractLsb' 3 18 else 0) ++ m.extractLsb' 2 1
      ++ m.extractLsb' 1 1 ++ (0 : BitVec 1) := by
  conv_lhs => rw [← append_std_ext_ide_rtr (canon m), canon_std, canon_ext]
  rw [extract_one (canon m) 2, extract_one (canon m) 1, extract_one (canon m) 0, canon_ide, canon_rtr, canon_bit0,
    ← extract_one, ← extract_one]
  rfl

/-! ### Comparisons bit by bit -/

/-- Two words that differ nowhere under a mask agree at every bit it holds. -/
theorem xor_and_eq_zero_iff {w : Nat} (a b k : BitVec w) :
    (a ^^^ b) &&& k = 0 ↔ ∀ j < w, k.getLsbD j = true → a.getLsbD j = b.getLsbD j := by
  have hbit (j : Nat) : ((a ^^^ b) &&& k).getLsbD j = false ↔ (k.getLsbD j = true → a.getLsbD j = b.getLsbD j) := by
    rw [BitVec.getLsbD_and, BitVec.getLsbD_xor]
    cases k.getLsbD j <;> simp
  constructor
  · intro h j _
    exact (hbit j).mp (by rw [h]; exact BitVec.getLsbD_zero)
  · intro h
    exact BitVec.eq_of_getLsbD_eq fun j hj => ((hbit j).mpr (h j hj)).trans BitVec.getLsbD_zero.symm

/-- STD and RTR (46 R257). -/
theorem getLsbD_stdMask {j : Nat} (hj : j < 32) : stdMask.getLsbD j = true ↔ j = 1 ∨ 21 ≤ j := by
  revert j
  decide

theorem getLsbD_fullMask {j : Nat} (hj : j < 32) : fullMask.getLsbD j = true ↔ 1 ≤ j := by
  revert j
  decide

/-- 46 R257: the bits that take part under the mask the second operand chooses. -/
theorem getLsbD_sel (b : Word) {j : Nat} (hj : j < 32) :
    (sel b).getLsbD j = true ↔ 1 ≤ j ∧ (b.getLsbD 2 = true ∨ j = 1 ∨ 21 ≤ j) := by
  unfold sel
  split
  case isTrue h => rw [getLsbD_fullMask hj, and_iff_left (Or.inl h)]
  case isFalse h =>
    rw [getLsbD_stdMask hj, or_iff_right h]
    omega

/-- 46 R259, R261: a masked comparison looks at the bits of one mask that the other leaves. -/
theorem xor_and_and_not_eq_zero_iff {a b k m : Word} {part : Nat → Prop}
    (hpart : ∀ j < 32, m.getLsbD j = true ↔ part j) :
    (a ^^^ b) &&& m &&& ~~~k = 0 ↔ ∀ j < 32, part j → k.getLsbD j = false → a.getLsbD j = b.getLsbD j := by
  rw [BitVec.and_assoc, xor_and_eq_zero_iff]
  refine forall₂_congr fun j hj => ?_
  rw [← hpart j hj, BitVec.getLsbD_and, BitVec.getLsbD_not, decide_eq_true hj, Bool.true_and, Bool.and_eq_true,
    Bool.not_eq_true', and_imp]

theorem idCompareMasked_iff (a b k : Word) : idCompareMasked a b k = true ↔
    ∀ j < 32, (1 ≤ j ∧ (b.getLsbD 2 = true ∨ j = 1 ∨ 21 ≤ j)) → k.getLsbD j = false →
      a.getLsbD j = b.getLsbD j :=
  beq_iff_eq.trans <| xor_and_and_not_eq_zero_iff fun _ hj => getLsbD_sel b hj

theorem idCompareStdMasked_iff (a b k : Word) : idCompareStdMasked a b k = true ↔
    ∀ j < 32, (j = 1 ∨ 21 ≤ j) → k.getLsbD j = false → a.getLsbD j = b.getLsbD j :=
  beq_iff_eq.trans <| xor_and_and_not_eq_zero_iff fun _ hj => getLsbD_stdMask hj

/-! ### Comparisons field by field -/

/-- Two MOBIDs agree in STD and RTR (46 R260). -/
def SameStd (a b : Word) : Prop := a.extractLsb' 21 11 = b.extractLsb' 21 11 ∧ a.getLsbD 1 = b.getLsbD 1

/-- Two MOBIDs agree in STD, RTR, EXT and IDE (46 R257). -/
def SameId (a b : Word) : Prop :=
  SameStd a b ∧ a.extractLsb' 3 18 = b.extractLsb' 3 18 ∧ a.getLsbD 2 = b.getLsbD 2

theorem SameStd.symm {a b : Word} (h : SameStd a b) : SameStd b a := ⟨h.1.symm, h.2.symm⟩

theorem SameId.symm {a b : Word} (h : SameId a b) : SameId b a := ⟨h.1.symm, h.2.1.symm, h.2.2.symm⟩

/-- Fields are equal where each of their bits is. -/
theorem extract_eq_iff {w : Nat} (a b : BitVec w) (lo len : Nat) :
    a.extractLsb' lo len = b.extractLsb' lo len ↔ ∀ j, lo ≤ j → j < lo + len → a.getLsbD j = b.getLsbD j := by
  constructor
  · intro h j hlo hj
    have hbit := congrArg (·.getLsbD (j - lo)) h
    simpa [BitVec.getLsbD_extractLsb', show j - lo < len by omega, Nat.add_sub_cancel' hlo] using hbit
  · intro h
    refine BitVec.eq_of_getLsbD_eq fun j hj => ?_
    rw [BitVec.getLsbD_extractLsb', BitVec.getLsbD_extractLsb', h (lo + j) (by omega) (by omega)]

theorem sameStd_iff (a b : Word) : SameStd a b ↔ ∀ j < 32, (j = 1 ∨ 21 ≤ j) → a.getLsbD j = b.getLsbD j := by
  rw [SameStd, extract_eq_iff]
  constructor
  · rintro ⟨hstd, hrtr⟩ j hj (rfl | hlo)
    · exact hrtr
    · exact hstd j hlo hj
  · exact fun h => ⟨fun j hlo hj => h j hj (.inr hlo), h 1 (by decide) (.inl rfl)⟩

theorem sameId_iff (a b : Word) : SameId a b ↔ ∀ j < 32, 1 ≤ j → a.getLsbD j = b.getLsbD j := by
  rw [SameId, sameStd_iff, extract_eq_iff]
  constructor
  · rintro ⟨hstd, hext, hide⟩ j hj hpos
    obtain h | rfl | h : (j = 1 ∨ 21 ≤ j) ∨ j = 2 ∨ (3 ≤ j ∧ j < 21) := by omega
    · exact hstd j hj h
    · exact hide
    · exact hext j h.1 h.2
  · exact fun h => ⟨fun j hj _ => h j hj (by omega), fun j _ _ => h j (by omega) (by omega),
      h 2 (by decide) (by decide)⟩

theorem idCompareStd_iff (a b : Word) : idCompareStd a b = true ↔ SameStd a b := by
  rw [sameStd_iff, idCompareStd, beq_iff_eq, xor_and_eq_zero_iff]
  exact forall₂_congr fun j hj => imp_congr_left (getLsbD_stdMask hj)

/-- 46 R258: EXT and IDE take part where the second operand is extended. -/
theorem idCompare_iff (a b : Word) :
    idCompare a b = true ↔ if b.getLsbD 2 then SameId a b else SameStd a b := by
  unfold idCompare sel
  split
  case isTrue =>
    rw [sameId_iff, beq_iff_eq, xor_and_eq_zero_iff]
    exact forall₂_congr fun j hj => imp_congr_left (getLsbD_fullMask hj)
  case isFalse => exact idCompareStd_iff a b

theorem idCompareStd_of_idCompare {a b : Word} (h : idCompare a b = true) : idCompareStd a b = true := by
  rw [idCompareStd_iff]
  rw [idCompare_iff] at h
  split at h
  case isTrue => exact h.1
  case isFalse => exact h

/-- 46 R265: only an extended MOBID compared with a standard one can match one way round and not the other. -/
theorem idCompare_asymm_iff (a b : Word) : (idCompare a b = true ∧ idCompare b a = false) ↔
    (a.getLsbD 2 = true ∧ b.getLsbD 2 = false ∧ SameStd a b) := by
  rw [← Bool.not_eq_true (idCompare b a), idCompare_iff, idCompare_iff]
  constructor
  · rintro ⟨hab, hba⟩
    cases hb : b.getLsbD 2 with
    | true =>
      rw [if_pos hb] at hab
      have hide : a.getLsbD 2 = true := hab.2.2.trans hb
      rw [if_pos hide] at hba
      exact absurd hab.symm hba
    | false =>
      rw [hb, if_neg Bool.false_ne_true] at hab
      cases ha : a.getLsbD 2 with
      | true => exact ⟨rfl, rfl, hab⟩
      | false =>
        rw [ha, if_neg Bool.false_ne_true] at hba
        exact absurd hab.symm hba
  · rintro ⟨ha, hb, hstd⟩
    rw [ha, hb, if_neg Bool.false_ne_true, if_pos rfl]
    refine ⟨hstd, fun h => ?_⟩
    exact absurd (hb.symm.trans (h.2.2.trans ha)) Bool.false_ne_true

/-! ### Fields as numbers -/

/-- A value shifted to its place, where it does not overflow. -/
theorem toNat_ofNat_shiftLeft {w a k : Nat} (ha : a * 2 ^ k < 2 ^ w) : (BitVec.ofNat w a <<< k).toNat = a * 2 ^ k := by
  have hfit : a < 2 ^ w := (Nat.le_mul_of_pos_right a (Nat.two_pow_pos k)).trans_lt ha
  rw [BitVec.toNat_shiftLeft, BitVec.toNat_ofNat, Nat.mod_eq_of_lt hfit, Nat.shiftLeft_eq, Nat.mod_eq_of_lt ha]

/-- A value placed above another one. -/
theorem toNat_ofNat_shiftLeft_or {w a k : Nat} {y : BitVec w} (ha : a * 2 ^ k < 2 ^ w) (hy : y.toNat < 2 ^ k) :
    (BitVec.ofNat w a <<< k ||| y).toNat = a * 2 ^ k + y.toNat := by
  rw [BitVec.toNat_or, toNat_ofNat_shiftLeft ha, ← Nat.shiftLeft_eq, Nat.shiftLeft_add_eq_or_of_lt hy]

/-- A field of a word, as a quotient and remainder. -/
theorem toNat_extract_ofNat {w m : Nat} (hm : m < 2 ^ w) (lo len : Nat) :
    ((BitVec.ofNat w m).extractLsb' lo len).toNat = m / 2 ^ lo % 2 ^ len := by
  rw [BitVec.extractLsb'_toNat, BitVec.toNat_ofNat, Nat.mod_eq_of_lt hm, Nat.shiftRight_eq_div_pow]

/-- The highest field of a word, as a quotient. -/
theorem toNat_extract_ofNat_high {w m lo len : Nat} (hm : m < 2 ^ w) (hw : w = lo + len) :
    ((BitVec.ofNat w m).extractLsb' lo len).toNat = m / 2 ^ lo := by
  rw [toNat_extract_ofNat hm, Nat.mod_eq_of_lt]
  exact Nat.div_lt_of_lt_mul (by rwa [← Nat.pow_add, ← hw])

theorem toNat_getLsbD_ofNat {w m : Nat} (hm : m < 2 ^ w) (k : Nat) :
    ((BitVec.ofNat w m).getLsbD k).toNat = m / 2 ^ k % 2 := by
  rw [← BitVec.toNat_ofBool, ← extract_one, toNat_extract_ofNat hm, Nat.pow_one]

/-! ### The commands -/

section
variable {s : State}

/-- A command with two operands, which fit, can start. -/
theorem ready_of_pair {i : Instr} {w w' : Nat} (hf : s.fault = none) (hw : slotWidths i = [w, w'])
    (h1 : s.ops.x1 < 2 ^ w) (h2 : s.ops.x2 < 2 ^ w') : Ready i s := by
  refine ⟨hf, fun k hk => ?_⟩
  obtain rfl | rfl : k = 0 ∨ k = 1 := by
    have : k < 2 := by simpa [hw] using hk
    omega
  · simpa [hw] using h1
  · simpa [hw] using h2

theorem idEnc_next (h : Ready .idEnc s) :
    exec .idEnc s = .next (s.setRes (Results.one (canon (word s 1)).toNat)) := by
  refine command_ok h.1 ?_
  rw [Cmd.bind_ok (operandWord_of_ready h 0 rfl)]
  rfl

theorem idCmp_next (h : Ready .idCmp s) :
    exec .idCmp s = .next (s.setRes (Results.one (idCompare (word s 1) (word s 2)).toNat)) := by
  refine command_ok h.1 ?_
  rw [Cmd.bind_ok (operandWord_of_ready h 0 rfl), Cmd.bind_ok (operandWord_of_ready h 1 rfl)]
  rfl

theorem idCmps_next (h : Ready .idCmps s) :
    exec .idCmps s = .next (s.setRes (Results.one (idCompareStd (word s 1) (word s 2)).toNat)) := by
  refine command_ok h.1 ?_
  rw [Cmd.bind_ok (operandWord_of_ready h 0 rfl), Cmd.bind_ok (operandWord_of_ready h 1 rfl)]
  rfl

theorem idCmpm_next (h : Ready .idCmpm s) :
    exec .idCmpm s = .next (s.setRes (Results.one (idCompareMasked (word s 1) (word s 2) (word s 3)).toNat)) := by
  refine command_ok h.1 ?_
  rw [Cmd.bind_ok (operandWord_of_ready h 0 rfl), Cmd.bind_ok (operandWord_of_ready h 1 rfl),
    Cmd.bind_ok (operandWord_of_ready h 2 rfl)]
  rfl

theorem idCmpsm_next (h : Ready .idCmpsm s) :
    exec .idCmpsm s = .next (s.setRes (Results.one (idCompareStdMasked (word s 1) (word s 2) (word s 3)).toNat)) := by
  refine command_ok h.1 ?_
  rw [Cmd.bind_ok (operandWord_of_ready h 0 rfl), Cmd.bind_ok (operandWord_of_ready h 1 rfl),
    Cmd.bind_ok (operandWord_of_ready h 2 rfl)]
  rfl

/-- A command that answers a comparison answers 1 exactly where it holds, else 0. -/
theorem answers_of_iff {i : Instr} {v : Bool} {e : Prop} (hexec : exec i s = .next (s.setRes (Results.one v.toNat)))
    (hv : v = true ↔ e) :
    (e → exec i s = .next (s.setRes ⟨some 1, none, none, none, none⟩))
      ∧ (¬ e → exec i s = .next (s.setRes ⟨some 0, none, none, none, none⟩)) := by
  constructor
  · intro h
    rw [hexec, hv.mpr h]
    rfl
  · intro h
    rw [hexec, Bool.eq_false_iff.mpr (mt hv.mp h)]
    rfl

/-- 46 R262: STD and RTR in their places, which do not overlap. -/
theorem idMkstd_next (h : Ready .idMkstd s) :
    exec .idMkstd s = .next (s.setRes (Results.one (s.ops.x1 * 2 ^ 21 + s.ops.x2 * 2))) := by
  have h1 : s.ops.x1 < 2 ^ 11 := h.2 0 (by decide)
  have h2 : s.ops.x2 < 2 ^ 1 := h.2 1 (by decide)
  have hrtr : (BitVec.ofNat 32 s.ops.x2 <<< 1).toNat = s.ops.x2 * 2 ^ 1 := toNat_ofNat_shiftLeft (by omega)
  have hword : (BitVec.ofNat 32 s.ops.x1 <<< 21 ||| BitVec.ofNat 32 s.ops.x2 <<< 1).toNat
      = s.ops.x1 * 2 ^ 21 + s.ops.x2 * 2 := by
    rw [toNat_ofNat_shiftLeft_or (by omega) (by omega), hrtr, Nat.pow_one]
  refine command_ok h.1 ?_
  rw [Cmd.bind_ok (operand_ok (i := 1) h1), Cmd.bind_ok (operand_ok (i := 2) h2), ← hword]
  rfl

/-- 46 R263: the identifier, IDE and RTR in their places, which do not overlap. -/
theorem idMkext_next (h : Ready .idMkext s) :
    exec .idMkext s = .next (s.setRes (Results.one (s.ops.x1 * 8 + 4 + s.ops.x2 * 2))) := by
  have h1 : s.ops.x1 < 2 ^ 29 := h.2 0 (by decide)
  have h2 : s.ops.x2 < 2 ^ 1 := h.2 1 (by decide)
  have hrtr : (BitVec.ofNat 32 s.ops.x2 <<< 1).toNat = s.ops.x2 * 2 ^ 1 := toNat_ofNat_shiftLeft (by omega)
  have hflags : ((0x4 : Word) ||| BitVec.ofNat 32 s.ops.x2 <<< 1).toNat = 1 * 2 ^ 2 + s.ops.x2 * 2 ^ 1 := by
    have hide : (0x4 : Word) = BitVec.ofNat 32 1 <<< 2 := by decide
    rw [hide, toNat_ofNat_shiftLeft_or (by decide) (by omega), hrtr]
  have hword : (BitVec.ofNat 32 s.ops.x1 <<< 3 ||| (0x4 : Word) ||| BitVec.ofNat 32 s.ops.x2 <<< 1).toNat
      = s.ops.x1 * 8 + 4 + s.ops.x2 * 2 := by
    rw [BitVec.or_assoc, toNat_ofNat_shiftLeft_or (by omega) (by omega), hflags]
    omega
  refine command_ok h.1 ?_
  rw [Cmd.bind_ok (operand_ok (i := 1) h1), Cmd.bind_ok (operand_ok (i := 2) h2), ← hword]
  rfl

/-- 46 R264: the fields of the canonical form. -/
theorem idFields_next (h : Ready .idFields s) :
    let c := canon (word s 1)
    exec .idFields s = .next (s.setRes (Results.five (mobidStd c).toNat (mobidExt c).toNat (mobidIde c).toNat
      (mobidRtr c).toNat (if mobidIde c then (mobidId29 c).toNat else (mobidStd c).toNat))) := by
  refine command_ok h.1 ?_
  rw [Cmd.bind_ok (operandWord_of_ready h 0 rfl)]
  rfl

/-- 46 R264: an extended MOBID's fields, as quotients and remainders of the operand. -/
theorem idFields_extended (h : Ready .idFields s) (hide : (word s 1).getLsbD 2 = true) :
    exec .idFields s = .next (s.setRes (Results.five (s.ops.x1 / 2 ^ 21) (s.ops.x1 / 8 % 2 ^ 18) 1 (s.ops.x1 / 2 % 2)
      (s.ops.x1 / 8))) := by
  have h1 : s.ops.slot 1 < 2 ^ 32 := h.2 0 (by decide)
  rw [idFields_next h, mobidStd, mobidExt, mobidIde, mobidRtr, mobidId29, canon_std, canon_ext, canon_ide, canon_rtr,
    canon_id29 hide, hide, if_pos rfl, if_pos rfl, toNat_extract_ofNat_high h1 rfl, toNat_extract_ofNat h1,
    toNat_getLsbD_ofNat h1, toNat_extract_ofNat_high h1 rfl]
  rfl

/-- 46 R264: a standard MOBID's fields; its EXT is 0 and its identifier STD. -/
theorem idFields_standard (h : Ready .idFields s) (hide : (word s 1).getLsbD 2 = false) :
    exec .idFields s = .next (s.setRes (Results.five (s.ops.x1 / 2 ^ 21) 0 0 (s.ops.x1 / 2 % 2)
      (s.ops.x1 / 2 ^ 21))) := by
  have h1 : s.ops.slot 1 < 2 ^ 32 := h.2 0 (by decide)
  rw [idFields_next h, mobidStd, mobidExt, mobidIde, mobidRtr, canon_std, canon_ext, canon_ide, canon_rtr, hide,
    if_neg Bool.false_ne_true, if_neg Bool.false_ne_true, toNat_extract_ofNat_high h1 rfl, toNat_getLsbD_ofNat h1]
  rfl

/-- 46 R265: ID.FIELDS of what ID.MKSTD builds. -/
theorem idFields_of_mkstd {std rtr : Nat} (hf : s.fault = none) (hstd : std < 2 ^ 11) (hrtr : rtr < 2 ^ 1)
    (hx : s.ops.x1 = std * 2 ^ 21 + rtr * 2) :
    exec .idFields s = .next (s.setRes (Results.five std 0 0 rtr std)) := by
  have hfit : s.ops.x1 < 2 ^ 32 := by omega
  have hide : s.ops.x1 / 2 ^ 2 % 2 = 0 := by omega
  have hstd' : s.ops.x1 / 2 ^ 21 = std := by omega
  have hrtr' : s.ops.x1 / 2 % 2 = rtr := by omega
  rw [idFields_standard (ready_of_single hf rfl hfit) (Bool.toNat_eq_zero.mp ((toNat_getLsbD_ofNat hfit 2).trans hide)),
    hstd', hrtr']

/-- 46 R265: ID.FIELDS of what ID.MKEXT builds. -/
theorem idFields_of_mkext {id29 rtr : Nat} (hf : s.fault = none) (hid : id29 < 2 ^ 29) (hrtr : rtr < 2 ^ 1)
    (hx : s.ops.x1 = id29 * 8 + 4 + rtr * 2) :
    exec .idFields s = .next (s.setRes (Results.five (id29 / 2 ^ 18) (id29 % 2 ^ 18) 1 rtr id29)) := by
  have hfit : s.ops.x1 < 2 ^ 32 := by omega
  have hide : s.ops.x1 / 2 ^ 2 % 2 = 1 := by omega
  have hstd : s.ops.x1 / 2 ^ 21 = id29 / 2 ^ 18 := by omega
  have hrtr' : s.ops.x1 / 2 % 2 = rtr := by omega
  have hid' : s.ops.x1 / 8 = id29 := by omega
  rw [idFields_extended (ready_of_single hf rfl hfit) (Bool.toNat_eq_one.mp ((toNat_getLsbD_ofNat hfit 2).trans hide)),
    hstd, hrtr', hid']

end

/-- Settles O36: ID.DEC clears bit 0 first, which the canonical form does anyway. -/
theorem idEncDec : Obligations.IdEncDec := by
  intro s i hi h m ext w
  have hw : canon m = w := canon_eq_append m
  obtain rfl | rfl : i = .idEnc ∨ i = .idDec := by simpa using hi
  · rw [idEnc_next h, hw, Results.one]
  · rw [idDec_next h, canon_and_fullMask, hw, Results.one]

/-- Settles O37: each comparison's answer, by what it holds of the bits or the fields. -/
theorem idComparisons : Obligations.IdComparisons := by
  intro s
  exact ⟨fun h => answers_of_iff (idCmp_next h) (idCompare_iff _ _),
    fun h => answers_of_iff (idCmps_next h) (idCompareStd_iff _ _),
    fun h => answers_of_iff (idCmpm_next h) (idCompareMasked_iff _ _ _),
    fun h => answers_of_iff (idCmpsm_next h) (idCompareStdMasked_iff _ _ _)⟩

/-- Settles O38: each command answers its comparison, whose asymmetry is `idCompare_asymm_iff`. -/
theorem idCompareAsymmetry : Obligations.IdCompareAsymmetry := by
  intro s h swapped
  have hswapped : Ready .idCmp swapped := ready_of_pair h.1 rfl (h.2 1 (by decide)) (h.2 0 (by decide))
  have hone {v : Bool} : some v.toNat = some 1 ↔ v = true := Option.some_inj.trans Bool.toNat_eq_one
  have hzero {v : Bool} : some v.toNat = some 0 ↔ v = false := Option.some_inj.trans Bool.toNat_eq_zero
  refine ⟨_, _, _, idCmp_next h, idCmp_next hswapped, idCmps_next h, fun ht => ?implies, ?asymmetric⟩
  case implies => exact hone.mpr (idCompareStd_of_idCompare (hone.mp ht))
  case asymmetric => exact (and_congr hone hzero).trans (idCompare_asymm_iff _ _)

/-- Settles O39: the sums the commands build, and the quotients that ID.FIELDS answers for each IDE. -/
theorem idBuildAndSplit : Obligations.IdBuildAndSplit :=
  fun _ => ⟨idMkstd_next, idMkext_next, fun h => ⟨idFields_extended h, idFields_standard h⟩⟩

/-- Settles O40: ID.FIELDS divides the sum that each command built, at the state it ends in. -/
theorem idFieldsRoundTrip : Obligations.IdFieldsRoundTrip := by
  refine ⟨fun s t m h ht hres => ?std, fun s t m h ht hres => ?ext⟩
  case std =>
    rw [idMkstd_next h] at ht
    cases ht
    cases hres
    exact ⟨_, idFields_of_mkstd h.1 (h.2 0 (by decide)) (h.2 1 (by decide)) rfl, h.1, rfl⟩
  case ext =>
    rw [idMkext_next h] at ht
    cases ht
    cases hres
    exact ⟨_, idFields_of_mkext h.1 (h.2 0 (by decide)) (h.2 1 (by decide)) rfl, h.1, rfl⟩

end Sys2Proof.Machine
end

section
/-! The reset of 70_reset_and_hazards.md: what power-on, the reset pulse and MCR.RESET leave (R310 to R312). -/

namespace Sys2Proof.Machine

open Sys2Proof.Spec

/-- 70 R312: the filter registers' reset values are the stated ones. -/
theorem Filters.filtersReset_reset : FiltersReset Filters.reset := by
  refine ⟨rfl, rfl, rfl, rfl, rfl, fun n => ?_⟩
  rw [Filters.bank_reset]
  exact ⟨rfl, rfl⟩

theorem State.isReset_ctl_reset (c : Ctl) : IsReset (State.reset.ctl c) := by
  rw [State.ctl_reset]
  exact Ctrl.isReset_reset

theorem params_hostReset (c : Ctl) (s : State) : (hostReset c s).params = s.params := by cases c <;> rfl

theorem agenda_hostReset (c : Ctl) (s : State) : (hostReset c s).agenda = s.agenda := by cases c <;> rfl

/-- Settles O11: both controllers and the filter registers are in order after their resets. -/
theorem resetMeetsInvariant : Obligations.ResetMeetsInvariant :=
  ⟨Ctrl.inv_reset _, Ctrl.inv_reset _, Filters.inv_reset⟩

/-- Settles O12: power-on puts the controllers and the filter registers at the stated values. -/
theorem resetValues : Obligations.ResetValues :=
  ⟨State.isReset_ctl_reset, Filters.filtersReset_reset, rfl, fun s c => fault_hostReset c s⟩

/-- 70 R310: the reset pulse resets its controller, with controller 0 also the filter registers, and nothing else. -/
theorem isReset_hostReset (c : Ctl) (s : State) :
    IsReset ((hostReset c s).ctl c) ∧ (∀ d, d ≠ c → (hostReset c s).ctl d = s.ctl d)
      ∧ (c = .primary → FiltersReset (hostReset c s).filters)
      ∧ (c ≠ .primary → (hostReset c s).filters = s.filters) := by
  simp only [ctl_hostReset, filters_hostReset, if_pos]
  refine ⟨Ctrl.isReset_reset, fun d hd => if_neg hd, fun hc => ?primary, fun hc => if_neg hc⟩
  case primary => rw [if_pos hc]; exact Filters.filtersReset_reset

/-- 40 R133, 70 R311: MCR.RESET replaces the controller by a reset one, and nothing else. -/
theorem regWr_mcr_reset {s : State} {c : Ctl} (h : Ready (.regWr c) s) (hoff : s.ops.x1 = 0x000)
    (hv : (word s 2).getLsbD 15 = true)
    (hinit : (s.ctl c).msr.inak = true ∨ word s 2 &&& 0x000100FC = (s.ctl c).mcr &&& 0x000100FC) :
    exec (.regWr c) s = .next ((s.setCtl c Ctrl.reset).setRes Results.absent) :=
  regWr_ok (r := .mcr) h hoff nofun (writeMcr_reset hinit hv)

/-- Settles O13: the pulse is `hostReset`, and MCR.RESET replaces the controller alone. -/
theorem instanceResets : Obligations.InstanceResets := by
  refine ⟨State.isReset_ctl_reset, fun s c hf => ⟨fun rest ha => ?pulse, fun h hoff hv hinit => ?mcr⟩⟩
  case pulse =>
    obtain ⟨hreset, hother, hfilters, hkept⟩ := isReset_hostReset c { s with agenda := rest }
    refine ⟨_, step_of_agenda_cons hf ha, hreset, hother, hfilters, hkept, ?_, params_hostReset c _,
      agenda_hostReset c _⟩
    exact (fault_hostReset c _).trans hf
  case mcr =>
    refine ⟨_, regWr_mcr_reset h hoff hv hinit, ?_, fun d hd => ?_, ?_, ?_, ?_, rfl⟩
    · rw [State.ctl_setRes, State.ctl_setCtl_self]; exact Ctrl.isReset_reset
    · rw [State.ctl_setRes, State.ctl_setCtl_ne s _ hd]
    · exact s.filters_setCtl c _
    · exact (s.fault_setCtl c _).trans hf
    · exact s.params_setCtl c _

end Sys2Proof.Machine
end

section
/-! The interrupt request lines and the steps of the environment (60 R288, R296, R297). -/

namespace Sys2Proof.Machine

open Sys2Proof.Spec

/-! ### The interrupt request lines -/

/-- A FIFO's line is asserted by an enabled condition of the FIFO (60 R288). -/
theorem Fifo.line_iff (x : Fifo) (fmpie ffie fovie : Bool) : x.line fmpie ffie fovie = true ↔
    (fmpie = true ∧ x.q ≠ []) ∨ (ffie = true ∧ x.full = true) ∨ (fovie = true ∧ x.fovr = true) := by
  simp only [Fifo.line, Bool.or_eq_true, Bool.and_eq_true, bne_iff_ne, List.length_eq_zero_iff, or_assoc, ne_eq]

/-- Mailbox by mailbox, what RQCP asks of IRQ_TX (60 R288). -/
theorem rqcp_or_iff (r : Ctrl) :
    ((r.mb 0).rqcp || (r.mb 1).rqcp || (r.mb 2).rqcp) = true ↔ ∃ m, (r.mb m).rqcp = true := by
  simp [Fin.exists_fin_succ, or_assoc]

/-- Settles O53: each line is the disjunction of its enabled conditions. -/
theorem interruptLines : Obligations.InterruptLines := by
  intro s c on
  simp only [on, List.mem_cons, List.not_mem_nil, or_false, exists_eq_or_imp, exists_eq_left]
  refine ⟨?tx, Fifo.line_iff _ _ _ _, Fifo.line_iff _ _ _ _, ?sce⟩
  case tx => rw [Ctrl.irqTx, Bool.and_eq_true, rqcp_or_iff]; rfl
  case sce => simp only [Ctrl.irqSce, irqHolds, Bool.or_eq_true, Bool.and_eq_true, or_assoc]

/-! ### The steps of the environment -/

/-- 60 R290, R296: the acknowledgement of the requested mode, as INRQ and SLEEP ask for it. -/
theorem Ctrl.ack_target (r : Ctrl) : r.target.ack = (r.inrq, !r.inrq && r.sleepReq) := by
  unfold Ctrl.target
  cases r.inrq <;> cases r.sleepReq <;> rfl

/-- 60 R296: ACK is enabled where MSR does not acknowledge the requested mode. -/
theorem Ctrl.canAck_iff (r : Ctrl) :
    r.canAck = true ↔ ¬ (r.msr.inak = r.inrq ∧ r.msr.slak = (!r.inrq && r.sleepReq)) := by
  rw [Ctrl.canAck, bne_iff_ne, Ctrl.ack_target, ne_eq, Prod.mk.injEq]

/-- Where the requested mode is acknowledged, an acknowledgement changes nothing. -/
theorem Ctrl.acked_of_acknowledged {r : Ctrl} (hi : r.msr.inak = r.inrq) (hs : r.msr.slak = (!r.inrq && r.sleepReq)) :
    r.acked = r := by
  have hack : r.target.ack = (r.msr.inak, r.msr.slak) := by rw [Ctrl.ack_target, hi, hs]
  have hslaki : (r.msr.slaki || (!r.msr.slak && r.msr.slak)) = r.msr.slaki := by simp
  simp only [Ctrl.acked, hack, hslaki]

/-- 60 R296: ACK leaves its controller acknowledged, whether or not it had to be taken. -/
theorem ctl_ack (s : State) (c : Ctl) : (agentStep s (.ack c)).ctl c = (s.ctl c).acked := by
  by_cases h : (s.ctl c).canAck = true
  · exact ctl_agentStep_owner (a := .ack c) h
  · rw [agentStep_of_disabled (a := .ack c) h]
    obtain ⟨hi, hs⟩ := not_not.mp (mt (Ctrl.canAck_iff _).mpr h)
    exact (Ctrl.acked_of_acknowledged hi hs).symm

/-- 60 R297: WAKE is enabled in Sleep mode. -/
theorem Ctrl.canWake_iff (r : Ctrl) : r.canWake = true ↔ r.msr.inak = false ∧ r.msr.slak = true := by
  unfold Ctrl.canWake Ctrl.mode
  cases r.msr.inak <;> cases r.msr.slak <;> decide

/-- 60 R297: the conditions that let ERROR set ERRI are read from the given value, whose defined bits ESR takes. -/
theorem Ctrl.errorEnabled_of_esr (r : Ctrl) (v : Word) : { r with esr := v &&& esrMask }.errorEnabled =
    ((r.ier.getLsbD 8 && v.getLsbD 0) || (r.ier.getLsbD 9 && v.getLsbD 1) || (r.ier.getLsbD 10 && v.getLsbD 2)
      || (r.ier.getLsbD 11 && v.extractLsb' 4 3 != 0)) := by
  have hbit {k : Nat} (hk : esrMask.getLsbD k = true) : (v &&& esrMask).getLsbD k = v.getLsbD k := by
    rw [BitVec.getLsbD_and, hk, Bool.and_true]
  have hlec : (v &&& esrMask).extractLsb' 4 3 = v.extractLsb' 4 3 := extract_and_ones (by decide) v
  simp only [Ctrl.errorEnabled, hbit (k := 0) rfl, hbit (k := 1) rfl, hbit (k := 2) rfl, hlec]

/-- 60 R297: ERROR is always enabled. -/
theorem ctl_error (s : State) (c : Ctl) (v : Word) (b : Bool) :
    (agentStep s (.error c v b)).ctl c = (s.ctl c).errored v b := ctl_agentStep_owner (a := .error c v b) rfl

/-- Settles O57: ACK leaves what it would set, ERROR always happens, and WAKE happens in Sleep mode. -/
theorem envSteps : Obligations.EnvSteps := by
  intro s c v b r init sleep
  refine ⟨?ack, ?error, ?wake⟩
  case ack =>
    intro t
    have ht : t.ctl c = r.acked := ctl_ack s c
    refine ⟨?_, by rw [ht]; rfl, fun hi hs => agentStep_of_disabled (a := .ack c) ?_⟩
    · rw [ht, Ctrl.acked, Ctrl.ack_target]; rfl
    · exact mt (Ctrl.canAck_iff r).mp (not_not.mpr ⟨hi, hs⟩)
  case error =>
    intro t caused
    rw [ctl_error, Ctrl.errored, Ctrl.errorEnabled_of_esr]
    rfl
  case wake =>
    intro t
    refine ⟨fun h => agentStep_of_disabled (a := .wake c) fun hon => ?_, fun hi hs =>
      ctl_agentStep_owner (a := .wake c) ((Ctrl.canWake_iff r).mpr ⟨hi, hs⟩)⟩
    obtain ⟨hi, hs⟩ := (Ctrl.canWake_iff r).mp hon
    rcases h with h | h
    · rw [hi] at h; cases h
    · rw [hs] at h; cases h

end Sys2Proof.Machine
end

section
/-! What a command answers (60 R280, 30 R114): its parts leave the fault record, the operands, the parameters and the
agenda, so that its end alone records a fault or a result. -/

namespace Sys2Proof.Machine

/-- u has the fault record, the operands, the parameters and the agenda of s. -/
structure RecordsKept (s u : State) : Prop where
  fault : u.fault = s.fault
  ops : u.ops = s.ops
  params : u.params = s.params
  agenda : u.agenda = s.agenda

theorem RecordsKept.refl (s : State) : RecordsKept s s := ⟨rfl, rfl, rfl, rfl⟩

/-! ### The parts of a command -/

section
variable {s : State}

theorem keepsRecords_gap : Cmd.Keeps (RecordsKept s) gap := fun u h =>
  ⟨(fault_runGap u).trans h.fault, (ops_runGap u).trans h.ops, (params_runGap u).trans h.params,
    (agenda_runGap u).trans h.agenda⟩

theorem keepsRecords_draw : Cmd.Keeps (RecordsKept s) draw := fun _ h => ⟨h.fault, h.ops, h.params, h.agenda⟩

theorem keepsRecords_read {c : Ctl} {off n : Nat} : Cmd.Keeps (RecordsKept s) (memRead c off n) := by
  intro u h
  rcases memRead_cases c off n u with ⟨v, hv⟩ | ⟨f, hf⟩
  · rw [hv]; exact ⟨h.fault, h.ops, h.params, h.agenda⟩
  · rw [hf]; exact h

/-- A register write updates a controller or the filter registers. -/
theorem keepsRecords_write {c : Ctl} {off n : Nat} {v : Word} : Cmd.Keeps (RecordsKept s) (memWrite c off n v) := by
  unfold memWrite
  refine .ite ?_ .raise
  split
  case h_1 r _ =>
    refine keeps_writeReg (fw := true) (fun u k h _ => ?ctl) (fun u x h _ _ => ?filters) r v fun _ => rfl
    case ctl =>
      exact ⟨(u.fault_setCtl c k).trans h.fault, (u.ops_setCtl c k).trans h.ops, (u.params_setCtl c k).trans h.params,
        (u.agenda_setCtl c k).trans h.agenda⟩
    case filters => exact ⟨h.fault, h.ops, h.params, h.agenda⟩
  case h_2 => exact .raise

/-- A part that keeps the records, and then a gap. -/
theorem keepsRecords_thenGap {α β : Type} {w : Cmd α} {f : α → Cmd β} (hw : Cmd.Keeps (RecordsKept s) w)
    (hf : ∀ a, Cmd.Keeps (RecordsKept s) (f a)) : Cmd.Keeps (RecordsKept s) (w >>= fun a => gap >>= fun _ => f a) :=
  .bind hw fun a => .bind keepsRecords_gap fun _ => hf a

theorem keepsRecords_sendInto {c : Ctl} {b : Nat} {mobid : Word} {p : BitVec 64} {dlc : BitVec 4} :
    Cmd.Keeps (RecordsKept s) (sendInto c b mobid p dlc) :=
  .bind keepsRecords_gap fun _ => keepsRecords_thenGap keepsRecords_write fun _ =>
  .bind keepsRecords_write fun _ => .bind keepsRecords_draw fun _ =>
  .bind keepsRecords_gap fun _ => keepsRecords_thenGap keepsRecords_write fun _ =>
  keepsRecords_thenGap keepsRecords_write fun _ => keepsRecords_thenGap keepsRecords_read fun _ => keepsRecords_write

theorem keepsRecords_gapBefore {gs : List IrqSource} : Cmd.Keeps (RecordsKept s) (gapBefore gs) := by
  cases gs with
  | nil => exact .pure
  | cons g gs => exact keepsRecords_gap

/-- The loop of both interrupt commands, by what each writes back. -/
theorem keepsRecords_irqLoop {back : IrqSource → Word → Cmd Unit} (hback : ∀ g t, Cmd.Keeps (RecordsKept s) (back g t))
    {c : Ctl} {k : Word} {gs : List IrqSource} {p : Word} : Cmd.Keeps (RecordsKept s) (irqLoop back c k gs p) := by
  induction gs generalizing p with
  | nil => exact .pure
  | cons g gs ih =>
    exact .bind keepsRecords_read fun t => .bind (hback g t) fun _ => .bind keepsRecords_gapBefore fun _ => ih

theorem keepsRecords_irqPendLoop {c : Ctl} {k : Word} {gs : List IrqSource} {p : Word} :
    Cmd.Keeps (RecordsKept s) (irqPendLoop c k gs p) := by
  rw [irqPendLoop_eq]
  exact keepsRecords_irqLoop fun _ _ => .pure

theorem keepsRecords_irqClrLoop {c : Ctl} {k : Word} {gs : List IrqSource} {p : Word} :
    Cmd.Keeps (RecordsKept s) (irqClrLoop c k gs p) := by
  rw [irqClrLoop_eq]
  exact keepsRecords_irqLoop fun _ _ => .ite .pure (.bind keepsRecords_gap fun _ => keepsRecords_write)

end

/-! ### The commands -/

/-- Every command runs a body whose parts leave the records. -/
theorem exec_keepsRecords (i : Instr) (s : State) :
    ∃ body, exec i s = command s body ∧ Cmd.Keeps (RecordsKept s) body := by
  cases i with
  | regRd c => exact ⟨_, rfl, .bind .operand fun _ => .bind keepsRecords_read fun _ => .pure⟩
  | regWr c =>
    exact ⟨_, rfl, .bind .operand fun _ => .bind .word fun _ => .bind keepsRecords_write fun _ => .pure⟩
  | regRmw c =>
    exact ⟨_, rfl, .bind .operand fun _ => .bind .word fun _ => .bind .word fun _ =>
      keepsRecords_thenGap keepsRecords_read fun _ => .bind keepsRecords_write fun _ => .pure⟩
  | btSynth => exact ⟨_, rfl, .bind .operand fun _ => .bind .operand fun _ => .bind .operand fun _ => .pure⟩
  | btFreq =>
    exact ⟨_, rfl, .bind .operand fun _ => .bind .operand fun _ => .bind .operand fun _ => .bind .operand fun _ =>
      .bind .operand fun _ => .ite .raise .pure⟩
  | btApply c =>
    exact ⟨_, rfl, .bind .operand fun _ => .bind .operand fun _ => .bind .operand fun _ => .bind .operand fun _ =>
      .ite (keepsRecords_thenGap keepsRecords_read fun _ => .bind keepsRecords_write fun _ => .pure) .raise⟩
  | btRead | txSelect => exact ⟨_, rfl, .bind keepsRecords_read fun _ => .pure⟩
  | btClear => exact ⟨_, rfl, .bind keepsRecords_write fun _ => .pure⟩
  | fwEnc16 | idEnc | idDec | idFields => exact ⟨_, rfl, .bind .word fun _ => .pure⟩
  | fwL32 | fwM32 | idCmp | idCmps => exact ⟨_, rfl, .bind .word fun _ => .bind .word fun _ => .pure⟩
  | idCmpm | idCmpsm => exact ⟨_, rfl, .bind .word fun _ => .bind .word fun _ => .bind .word fun _ => .pure⟩
  | fwL16 | fwM16 =>
    exact ⟨_, rfl, .bind .word fun _ => .bind .word fun _ => .bind .word fun _ => .bind .word fun _ => .pure⟩
  | fwDec16 => exact ⟨_, rfl, .bind .operand fun _ => .pure⟩
  | idMkstd | idMkext => exact ⟨_, rfl, .bind .operand fun _ => .bind .operand fun _ => .pure⟩
  | txSend c =>
    exact ⟨_, rfl, .bind .word fun _ => .bind .operand fun _ => .bind .operand fun _ => .bind keepsRecords_read fun _ =>
      .ite .pure (.bind keepsRecords_sendInto fun _ => .pure)⟩
  | txReadback c idx =>
    exact ⟨_, rfl, .withMailbox fun _ => keepsRecords_thenGap keepsRecords_read fun _ =>
      keepsRecords_thenGap keepsRecords_read fun _ => keepsRecords_thenGap keepsRecords_read fun _ =>
      .bind keepsRecords_read fun _ => .pure⟩
  | txStatus c idx => exact ⟨_, rfl, .withMailbox fun _ => .bind keepsRecords_read fun _ => .pure⟩
  | rxRead c idx rel =>
    exact ⟨_, rfl, .withFifo fun _ => keepsRecords_thenGap keepsRecords_read fun _ =>
      keepsRecords_thenGap keepsRecords_read fun _ => keepsRecords_thenGap keepsRecords_read fun _ =>
      .bind keepsRecords_read fun _ =>
      .ite (.bind keepsRecords_gap fun _ => .bind keepsRecords_write fun _ => .pure) .pure⟩
  | rxRelease c idx => exact ⟨_, rfl, .withFifo fun _ => .bind keepsRecords_write fun _ => .pure⟩
  | rxCount c idx => exact ⟨_, rfl, .withFifo fun _ => .bind keepsRecords_read fun _ => .pure⟩
  | irqPend c => exact ⟨_, rfl, .bind .irqOperand fun _ => .bind keepsRecords_irqPendLoop fun _ => .pure⟩
  | irqClr c => exact ⟨_, rfl, .bind .irqOperand fun _ => .bind keepsRecords_irqClrLoop fun _ => .pure⟩

/-- 60 R280, 30 R114: the end of a command whose parts keep the records leaves no result beside a fault. -/
theorem finish_of_keepsRecords {s : State} {body : Cmd Results} (hf : s.fault = none)
    (hb : Cmd.Keeps (RecordsKept s) body) : ((finish (body s)).fault ≠ none → (finish (body s)).res = Results.absent)
      ∧ (finish (body s)).params = s.params ∧ (finish (body s)).ops = s.ops ∧ (finish (body s)).agenda = s.agenda := by
  have hend := hb s (.refl s)
  cases h : body s with
  | ok r u =>
    rw [h] at hend
    exact ⟨fun hfault => absurd (hend.fault.trans hf) hfault, hend.params, hend.ops, hend.agenda⟩
  | error f u =>
    rw [h] at hend
    exact ⟨fun _ => rfl, hend.params, hend.ops, hend.agenda⟩

/-- Settles O8: every command ends by `finish`, from a state with the records it began with. -/
theorem commandsAlwaysAnswer : Obligations.CommandsAlwaysAnswer := by
  intro i s hf
  obtain ⟨body, hexec, hkeeps⟩ := exec_keepsRecords i s
  exact ⟨_, hexec.trans (command_next hf body), finish_of_keepsRecords hf hkeeps⟩

theorem step_faulted {s : State} {f : Fault} (h : s.fault = some f) : step s = .fault f := by rw [step, h]

/-- Settles O7: the step and the run of a command both look at the fault record first. -/
theorem faultStopsMachine : Obligations.FaultStopsMachine := by
  intro s f hf
  refine ⟨step_faulted hf, fun i => ?_⟩
  obtain ⟨body, hexec, -⟩ := exec_keepsRecords i s
  exact hexec.trans (command_faulted hf body)

end Sys2Proof.Machine
end
